-- ==== Sys2Proof/Word.lean ====
section
/-! DEFINITION. The word types of the block (00_scope.md section 5, Widths): `u8`, `u16`, `u32`. -/

namespace Sys2Proof

/-- `u8`: a byte of a frame or of a queue. -/
abbrev Byte := BitVec 8

/-- `u16`: a length, a 16-bit checksum or a reading. -/
abbrev Half := BitVec 16

/-- `u32`: `now`, the three timing marks and the update interval (R26 to R28). -/
abbrev Time := BitVec 32

end Sys2Proof
end

