-- ==== Sys2Proof/Config.lean ====
section
/-! DEFINITION. The run-time configuration that `State.reset` latches (R6, R28). The spec says only that it
is "supplied once at construction"; the values are those of its own example `CFG UI=60000 ATT=111` (R231).
DESIGN CHOICE, log 6, unsafe. Any other configuration is `State.resetWith`, or the instruction RESET. -/

namespace Sys2Proof.Config

/-- `UI`, the update interval in ms. -/
def updateInterval : Time := 60000

/-- `ATT_PM1_0`, `ATT_PM2_5`, `ATT_PM10_0`: whether each output is attached. -/
def attached : Bool := true

end Sys2Proof.Config
end

