-- ==== Sys2Proof/Machine/Params.lean ====
section
/-! DEFINITION. The parameters of R6 as named constants (U15 asks for names, since the source's numeric literals
are unaudited). -/

namespace Sys2Proof.Machine.Params

/-- `STAB_MS`: the sensor's stabilisation duration. -/
def stabMs : Time := 45000
/-- `STALE_MS`: silence after which a partial frame is dropped, strictly more than this. -/
def staleMs : Time := 500
/-- `BUF_CAP`: the smallest capacity the document allows (D2, log 20). -/
def bufCap : Nat := 64
/-- `MEAS_LEN`: the only legal length field. -/
def measLen : Half := 28
/-- `PRE0`, `PRE1`: the measurement preamble. -/
def pre0 : Byte := 0x42
def pre1 : Byte := 0x4D
/-- `ACK0`: first byte of an ack frame and of a command frame. -/
def ack0 : Byte := 0xFF
/-- `ADDR`: second byte of a command frame. -/
def addr : Byte := 0x01
/-- `REPLY_CODE`: value of byte 1 that lets readings be published. -/
def replyCode : Byte := 0x86

/-- Command codes of the document's table (R66). -/
def cmdMode : Byte := 0x78
def cmdTrigger : Byte := 0x86
def cmdPower : Byte := 0xA7

end Sys2Proof.Machine.Params
end

