-- ==== Sys2Proof/Machine/Operands.lean ====
section
/-! DEFINITION. Operand forms on bytes: 16-bit fields (R40, R65), the two checksums (R63, R64), and the wire frames
(R60 to R62). Pure functions; reading them from the frame buffer is Ops.lean's. -/

namespace Sys2Proof.Machine

/-- `hi ++ lo`: the byte that travels first holds the more significant 8 bits (R40). -/
def joinBytes (hi lo : Byte) : Half := (hi.zeroExtend 16 <<< 8) ||| lo.zeroExtend 16

/-- The two bytes of a 16-bit field, first on the wire first (R40). -/
def highByte (v : Half) : Byte := BitVec.ofNat 8 (v.toNat >>> 8)
def lowByte (v : Half) : Byte := BitVec.ofNat 8 v.toNat

/-- `sum8(S)`: the sum of the bytes modulo 256 (00_scope.md section 5). -/
def sum8 : List Byte → Byte
  | [] => 0
  | b :: r => b + sum8 r

/-- `sum16(S)`: the sum modulo 65536, each byte zero-extended first; wraparound as R64 chooses. -/
def sum16 : List Byte → Half
  | [] => 0
  | b :: r => b.zeroExtend 16 + sum16 r

/-- `CHK8(S) = 0xFF -_8 sum8(S)` (R63). -/
def chk8 (s : List Byte) : Byte := 0xFF - sum8 s

/-- `CHK16(S) = sum16(S)` (R64). -/
def chk16 (s : List Byte) : Half := sum16 s

/-- The eight bytes of a command frame before its checksum (R60). -/
def commandHead (cmd data : Byte) : List Byte :=
  [Params.ack0, Params.addr, cmd, data, 0, 0, 0, 0]

/-- The command frame of R60: eight bytes and their `CHK8`. -/
def commandFrame (cmd data : Byte) : List Byte :=
  commandHead cmd data ++ [chk8 (commandHead cmd data)]

/-- An ack-shape frame: start byte, bytes 1 to 7, checksum byte as received (R61). -/
def ackFrame (body : List Byte) (chk : Byte) : List Byte :=
  Params.ack0 :: (body ++ [chk])

/-- Bytes 1 to 7 of a reply: code 0x86, PM2.5, PM10.0, PM1.0, each big-endian (R61, R150). -/
def replyBody (pm2_5 pm10_0 pm1_0 : Half) : List Byte :=
  [Params.replyCode, highByte pm2_5, lowByte pm2_5, highByte pm10_0, lowByte pm10_0,
    highByte pm1_0, lowByte pm1_0]

/-- The four header bytes of a measurement frame: preamble and length field (R62). -/
def measHead : List Byte :=
  [Params.pre0, Params.pre1, highByte Params.measLen, lowByte Params.measLen]

/-- A measurement-shape frame: header, 26 data bytes, checksum field as received (R62). -/
def measFrame (data : List Byte) (chk : Half) : List Byte :=
  measHead ++ (data ++ [highByte chk, lowByte chk])

end Sys2Proof.Machine
end

