-- ==== Sys2Proof/Syntax.lean ====
section
/-! DEFINITION. The operations of the block, one constructor per row of spec/opcode_table.json, in its order.
An operation's operands are those its rule lists under "Operands" and that are not state. -/

namespace Sys2Proof

/-- The two inbound frame shapes (R67): `PEND = 0` selects the measurement shape, `PEND = 1` the ack shape. -/
inductive Shape where
  | meas
  | ack
  deriving DecidableEq, Repr

/-- What REJECT is told (R113, R200). `overflow` is the FramingError of DECODE's bounds check, which has a
code of its own (R205). -/
inductive Cause where
  | framing
  | length
  | checksum
  | overflow
  deriving DecidableEq, Repr

inductive Instr where
  -- CMD9: the five frames the block sends, and the encoder
  | setModeQa                                         -- R132
  | setModeActive                                     -- R133
  | trigger                                           -- R134
  | powerOn                                           -- R135
  | standby                                           -- R136
  | encode (cmd data : Byte)                          -- R130
  -- ACK9, MEAS32: an inbound frame
  | ack (body : List Byte) (chk : Byte)               -- R61, bytes 1 to 7 and byte 8
  | reply86 (pm2_5 pm10_0 pm1_0 : Half) (chk : Byte)  -- R151, R150
  | meas (data : List Byte) (chk16 : Half)            -- R62, bytes 4 to 29 and bytes 30, 31
  -- SEL8: the decoder's per-index operations
  | decodeOvf                                         -- R100
  | decM0 (b : Byte)                                  -- R101
  | decM1 (b : Byte)                                  -- R102
  | decM2                                             -- R103
  | decM3                                             -- R104
  | decM31                                            -- R106
  | decMb                                             -- R105
  | decMx                                             -- R107
  | decA0 (b : Byte)                                  -- R108
  | decA8                                             -- R110
  | decAb                                             -- R109
  | decAx                                             -- R111
  -- TSEL4: the tick's operations
  | init                                              -- R161
  | dutyIdle                                          -- R162
  | dutyStab                                          -- R163
  | dutyWait                                          -- R164
  | contGate                                          -- R166
  -- CALL: operations selected by no pattern
  | decode (b : Byte)                                 -- R100
  | cont                                              -- R112, CONTINUE
  | reject (cause : Cause)                            -- R113
  | complete                                          -- R114
  | classify (shape : Shape) (bytes : List Byte)      -- R116
  | send (cmd data : Byte)                            -- R131
  | extract                                           -- R150
  | publish (pm1_0 pm2_5 pm10_0 : Half)               -- R151
  | onComplete                                        -- R153
  | mode                                              -- R160
  | dutyDone                                          -- R165
  | tick                                              -- R180
  | stale                                             -- R181
  | rxempty                                           -- R182
  | rxloop                                            -- R183
  | drain                                             -- R184
  | reset (ui : Time) (attPm1_0 attPm2_5 attPm10_0 : Bool)  -- R231
  deriving DecidableEq, Repr

end Sys2Proof
end

