-- ==== Sys2Proof/WellFormed.lean ====
section
/-! DEFINITION. Which terms of `Instr` are operations the opcode table has a word for. Three checks: the byte
lists of ACK and MEAS have their frame's length (R61, R62); an ACK row's byte 1 is not 0x86, since those words
are REPLY86's (its mask is the wider one); and an ENCODE row's pair is none of the five pairs with a row of
their own (R66). `exec` gives a meaning to the ill-formed terms too. -/

namespace Sys2Proof

/-- The five code and data pairs that have a row of their own (R66). -/
def ownRow (cmd data : Byte) : Bool :=
  (cmd, data) ∈ [((0x78 : Byte), (0x41 : Byte)), (0x78, 0x40), (0x86, 0x00), (0xA7, 0x00), (0xA7, 0x01)]

def Instr.wf : Instr → Bool
  | .encode cmd data => !ownRow cmd data
  | .ack body _ => body.length = 7 && body.head? != some 0x86
  | .meas data _ => data.length = 26
  | .setModeQa | .setModeActive | .trigger | .powerOn | .standby
  | .reply86 .. | .decodeOvf | .decM0 _ | .decM1 _ | .decM2 | .decM3 | .decM31 | .decMb | .decMx
  | .decA0 _ | .decA8 | .decAb | .decAx | .init | .dutyIdle | .dutyStab | .dutyWait | .contGate
  | .decode _ | .cont | .reject _ | .complete | .classify .. | .send .. | .extract | .publish ..
  | .onComplete | .mode | .dutyDone | .tick | .stale | .rxempty | .rxloop | .drain | .reset .. => true

end Sys2Proof
end

