-- ==== Sys2Proof/Decode.lean ====
section
/-! DEFINITION. From call words to operations and back.

The block fetches no instructions (R15, R52), so a CALL WORD is the model's own carrier for one operation: a format
byte, then the word the opcode table gives the row in that format, then the operand bytes the table gives no bits.
DESIGN CHOICE, log 3. Formats CMD9, ACK9, MEAS32: the wire frame, byte 0 first (R60 to R62). SEL8: `PEND` in bit 7,
`CUR` in bits 6 to 0. TSEL4: `INIT` in bit 3, `CYC` in bit 2, `DS` in bits 1 to 0 (R66). CALL: no bits in the table,
so a number, the row's place among the CALL rows. -/

namespace Sys2Proof

open Machine

/-- Why a call word is the word of no operation. -/
inductive DecodeReject where
  | emptyWord         -- no format byte, or no selection byte behind it
  | noFormat          -- a format byte past CALL
  | wrongLength       -- not as many bytes as the row has
  | fixedBytes        -- a byte the row's mask fixes has another value
  | commandChecksum   -- a command frame whose byte 8 is not CHK8 of bytes 0 to 7 (R60)
  | noSelection       -- SEL8 with CUR above 64, TSEL4 with DS code 3 or a bit above bit 3
  | noOperation       -- a CALL number with no row
  | noOperand         -- an operand byte that names no cause, shape or bit
  deriving DecidableEq, Repr

/-! ### Format bytes (log 3) -/

def fmtCmd : Byte := 0
def fmtAck : Byte := 1
def fmtMeas : Byte := 2
def fmtSel : Byte := 3
def fmtTick : Byte := 4
def fmtCall : Byte := 5

/-! ### Operand bytes -/

def takeNone (i : Instr) : List Byte → Except DecodeReject Instr
  | [] => .ok i
  | _ => .error .wrongLength

def takeByte (f : Byte → Instr) : List Byte → Except DecodeReject Instr
  | [b] => .ok (f b)
  | _ => .error .wrongLength

def takeTwo (f : Byte → Byte → Instr) : List Byte → Except DecodeReject Instr
  | [a, b] => .ok (f a b)
  | _ => .error .wrongLength

/-- Cause codes: DESIGN CHOICE, log 3. -/
def causeOf : Byte → Option Cause
  | 0 => some .framing
  | 1 => some .length
  | 2 => some .checksum
  | 3 => some .overflow
  | _ => none

def causeCode : Cause → Byte
  | .framing => 0
  | .length => 1
  | .checksum => 2
  | .overflow => 3

/-- A shape is written as the value of `PEND` that selects it (R116). -/
def shapeOf : Byte → Option Shape
  | 0 => some .meas
  | 1 => some .ack
  | _ => none

def shapeCode : Shape → Byte
  | .meas => 0
  | .ack => 1

def bitOf : Byte → Option Bool
  | 0 => some false
  | 1 => some true
  | _ => none

def bitCode (b : Bool) : Byte := if b then 1 else 0

/-- A 32-bit operand, most significant byte first. -/
def joinTime (a b c d : Byte) : Time :=
  BitVec.ofNat 32 (((a.toNat * 256 + b.toNat) * 256 + c.toNat) * 256 + d.toNat)

def timeBytes (t : Time) : List Byte :=
  [BitVec.ofNat 8 (t.toNat >>> 24), BitVec.ofNat 8 (t.toNat >>> 16), BitVec.ofNat 8 (t.toNat >>> 8),
    BitVec.ofNat 8 t.toNat]

/-! ### One decoder per format -/

/-- The row of a command frame: the five pairs have rows of their own, any other pair is ENCODE's (R66, R69). -/
def commandRow (cmd data : Byte) : Instr :=
  if cmd = Params.cmdMode ∧ data = 0x41 then .setModeQa
  else if cmd = Params.cmdMode ∧ data = 0x40 then .setModeActive
  else if cmd = Params.cmdTrigger ∧ data = 0x00 then .trigger
  else if cmd = Params.cmdPower ∧ data = 0x00 then .powerOn
  else if cmd = Params.cmdPower ∧ data = 0x01 then .standby
  else .encode cmd data

/-- CMD9 (R60). -/
def decodeCmd : List Byte → Except DecodeReject Instr
  | [b0, b1, cmd, data, b4, b5, b6, b7, chk] =>
    if [b0, b1, b4, b5, b6, b7] ≠ [Params.ack0, Params.addr, 0, 0, 0, 0] then .error .fixedBytes
    else if chk ≠ chk8 (commandHead cmd data) then .error .commandChecksum
    else .ok (commandRow cmd data)
  | _ => .error .wrongLength

/-- ACK9 (R61): the checksum byte is an operand, since a wrong one is a frame the decoder rejects, not an illegal word. -/
def decodeAck : List Byte → Except DecodeReject Instr
  | [b0, b1, b2, b3, b4, b5, b6, b7, chk] =>
    if b0 ≠ Params.ack0 then .error .fixedBytes
    else if b1 = Params.replyCode then
      .ok (.reply86 (joinBytes b2 b3) (joinBytes b4 b5) (joinBytes b6 b7) chk)
    else .ok (.ack [b1, b2, b3, b4, b5, b6, b7] chk)
  | _ => .error .wrongLength

/-- MEAS32 (R62): four fixed bytes, 26 data bytes, the checksum field as an operand. -/
def decodeMeas (f : List Byte) : Except DecodeReject Instr :=
  if f.length ≠ 32 then .error .wrongLength
  else if f.take 4 ≠ measHead then .error .fixedBytes
  else .ok (.meas ((f.drop 4).take 26) (joinBytes (f.getD 30 0) (f.getD 31 0)))

/-- SEL8: the decoder's dispatch word, each row's exact range of `CUR` as R66 gives it. -/
def decodeSel (sel : Byte) (rest : List Byte) : Except DecodeReject Instr :=
  let cur := sel.toNat % 128
  if cur > Params.bufCap then .error .noSelection
  else if cur = Params.bufCap then takeNone .decodeOvf rest
  else if sel.toNat < 128 then
    if cur = 0 then takeByte .decM0 rest
    else if cur = 1 then takeByte .decM1 rest
    else if cur = 2 then takeNone .decM2 rest
    else if cur = 3 then takeNone .decM3 rest
    else if cur ≤ 30 then takeNone .decMb rest
    else if cur = 31 then takeNone .decM31 rest
    else takeNone .decMx rest
  else
    if cur = 0 then takeByte .decA0 rest
    else if cur ≤ 7 then takeNone .decAb rest
    else if cur = 8 then takeNone .decA8 rest
    else takeNone .decAx rest

/-- The duty row of a TSEL4 word with `CYC = 1`; `DS` codes 0, 1, 2 are the table's own. -/
def dutyRow : Nat → Except DecodeReject Instr
  | 0 => .ok .dutyIdle
  | 1 => .ok .dutyStab
  | 2 => .ok .dutyWait
  | _ => .error .noSelection

/-- TSEL4: the row of the wider mask, so a word with `CYC = 1` is its duty row's; with `CYC = 0` the word is INIT's
while `INIT = 0` and CONT.GATE's after (a tick runs INIT's row and the duty row; log 4). -/
def decodeTick (w : Byte) : Except DecodeReject Instr :=
  if w.toNat ≥ 16 then .error .noSelection
  else if w.toNat / 4 % 2 = 1 then dutyRow (w.toNat % 4)
  else if w.toNat ≥ 8 then .ok .contGate
  else .ok .init

/-- CALL: rows numbered in the table's order (log 3). -/
def decodeCall (op : Byte) (rest : List Byte) : Except DecodeReject Instr :=
  match op.toNat with
  | 0 => takeByte .decode rest
  | 1 => takeNone .cont rest
  | 2 => match rest with
    | [c] => match causeOf c with
      | some cause => .ok (.reject cause)
      | none => .error .noOperand
    | _ => .error .wrongLength
  | 3 => takeNone .complete rest
  | 4 => match rest with
    | k :: bytes => match shapeOf k with
      | some shape => .ok (.classify shape bytes)
      | none => .error .noOperand
    | [] => .error .wrongLength
  | 5 => takeTwo .send rest
  | 6 => takeNone .extract rest
  | 7 => match rest with
    | [a, b, c, d, e, f] => .ok (.publish (joinBytes a b) (joinBytes c d) (joinBytes e f))
    | _ => .error .wrongLength
  | 8 => takeNone .onComplete rest
  | 9 => takeNone .mode rest
  | 10 => takeNone .dutyDone rest
  | 11 => takeNone .tick rest
  | 12 => takeNone .stale rest
  | 13 => takeNone .rxempty rest
  | 14 => takeNone .rxloop rest
  | 15 => takeNone .drain rest
  | 16 => match rest with
    | [a, b, c, d, x, y, z] => match bitOf x, bitOf y, bitOf z with
      | some p1, some p2, some p3 => .ok (.reset (joinTime a b c d) p1 p2 p3)
      | _, _, _ => .error .noOperand
    | _ => .error .wrongLength
  | _ => .error .noOperation

/-- The operation of a call word; total, and a word of no operation is rejected by name. -/
def decode : List Byte → Except DecodeReject Instr
  | [] => .error .emptyWord
  | fmt :: word =>
    if fmt = fmtCmd then decodeCmd word
    else if fmt = fmtAck then decodeAck word
    else if fmt = fmtMeas then decodeMeas word
    else if fmt = fmtSel then
      match word with
      | sel :: rest => decodeSel sel rest
      | [] => .error .emptyWord
    else if fmt = fmtTick then
      match word with
      | [w] => decodeTick w
      | _ => .error .wrongLength
    else if fmt = fmtCall then
      match word with
      | op :: rest => decodeCall op rest
      | [] => .error .emptyWord
    else .error .noFormat

/-! ### The encoder -/

/-- The call word of an operation. A SEL8 or TSEL4 row that covers several words gets the lowest one that is its
own; operands follow the word. -/
def encode : Instr → List Byte
  | .setModeQa => fmtCmd :: commandFrame Params.cmdMode 0x41
  | .setModeActive => fmtCmd :: commandFrame Params.cmdMode 0x40
  | .trigger => fmtCmd :: commandFrame Params.cmdTrigger 0x00
  | .powerOn => fmtCmd :: commandFrame Params.cmdPower 0x00
  | .standby => fmtCmd :: commandFrame Params.cmdPower 0x01
  | .encode cmd data => fmtCmd :: commandFrame cmd data
  | .ack body chk => fmtAck :: ackFrame body chk
  | .reply86 pm2_5 pm10_0 pm1_0 chk => fmtAck :: ackFrame (replyBody pm2_5 pm10_0 pm1_0) chk
  | .meas data chk => fmtMeas :: measFrame data chk
  | .decodeOvf => [fmtSel, 0x40]
  | .decM0 b => [fmtSel, 0x00, b]
  | .decM1 b => [fmtSel, 0x01, b]
  | .decM2 => [fmtSel, 0x02]
  | .decM3 => [fmtSel, 0x03]
  | .decM31 => [fmtSel, 0x1F]
  | .decMb => [fmtSel, 0x04]
  | .decMx => [fmtSel, 0x20]
  | .decA0 b => [fmtSel, 0x80, b]
  | .decA8 => [fmtSel, 0x88]
  | .decAb => [fmtSel, 0x81]
  | .decAx => [fmtSel, 0x89]
  | .init => [fmtTick, 0x0]
  | .dutyIdle => [fmtTick, 0x4]
  | .dutyStab => [fmtTick, 0x5]
  | .dutyWait => [fmtTick, 0x6]
  | .contGate => [fmtTick, 0x8]
  | .decode b => [fmtCall, 0, b]
  | .cont => [fmtCall, 1]
  | .reject cause => [fmtCall, 2, causeCode cause]
  | .complete => [fmtCall, 3]
  | .classify shape bytes => fmtCall :: 4 :: shapeCode shape :: bytes
  | .send cmd data => [fmtCall, 5, cmd, data]
  | .extract => [fmtCall, 6]
  | .publish a b c =>
    [fmtCall, 7, highByte a, lowByte a, highByte b, lowByte b, highByte c, lowByte c]
  | .onComplete => [fmtCall, 8]
  | .mode => [fmtCall, 9]
  | .dutyDone => [fmtCall, 10]
  | .tick => [fmtCall, 11]
  | .stale => [fmtCall, 12]
  | .rxempty => [fmtCall, 13]
  | .rxloop => [fmtCall, 14]
  | .drain => [fmtCall, 15]
  | .reset ui p1 p2 p3 => fmtCall :: 16 :: (timeBytes ui ++ [bitCode p1, bitCode p2, bitCode p3])

/-! ### The host's words, numbered as spec/opcode_table.json numbers them -/

/-- The `n` bytes of a number, byte 0 in the most significant place, as the table writes a frame (R66). -/
def bytesBE : Nat → Nat → List Byte
  | 0, _ => []
  | n + 1, w => BitVec.ofNat 8 (w >>> (8 * n)) :: bytesBE n w

/-- A row of SEL8 that takes the received byte as operand: a table word gives it no bits, so it is 0. -/
def selOperand (sel : Byte) : List Byte :=
  if sel = 0x00 ∨ sel = 0x01 ∨ sel = 0x80 then [0] else []

/-- The seven SEL8 words whose row fixes all eight bits. -/
def selExact (sel : Byte) : Bool :=
  sel ∈ [(0x00 : Byte), 0x01, 0x02, 0x03, 0x1F, 0x80, 0x88]

/-- Does this number select a row of TSEL4 (four bits in one byte)? -/
def isTickWord (w : Byte) : Bool := (decodeTick w).isOk

/-- A 9-byte table word: a command frame where its checksum is one. ENCODE's row fixes every byte but `cmd`, `data`
and the checksum, and the checksum is determined by the others; a word that leaves it 0 is completed with it (log 4).
Any other 9 bytes are an inbound frame. -/
def tableFrame (f : List Byte) : List Byte :=
  let cmd := f.getD 2 0
  let data := f.getD 3 0
  if (decodeCmd f).isOk then fmtCmd :: f
  else if f = commandHead cmd data ++ [0] ∧ ownRow cmd data = false then fmtCmd :: commandFrame cmd data
  else fmtAck :: f

/-- The call word of a table word. The table gives a row its bits but not, in them, its format; where rows of two
formats hold the same number, the row whose mask fixes more bits is taken (log 4). CALL rows have no bits: width 0
stands for the first of them. -/
def tableWord (nbits w : Nat) : List Byte :=
  if nbits = 72 then tableFrame (bytesBE 9 w)
  else if nbits = 256 then fmtMeas :: bytesBE 32 w
  else if nbits = 8 then
    let sel := BitVec.ofNat 8 w
    if !selExact sel && isTickWord sel then [fmtTick, sel] else fmtSel :: sel :: selOperand sel
  else if nbits = 4 then [fmtTick, BitVec.ofNat 8 w]
  else if nbits = 0 then [fmtCall, 0, 0]
  else []

/-- The operation the decoder reads from a table word. -/
def decodeTableWord (nbits w : Nat) : Option Instr :=
  match decode (tableWord nbits w) with
  | .ok i => some i
  | .error _ => none

end Sys2Proof
end

