-- ==== Sys2Proof/Machine/State.lean ====
section
/-! DEFINITION. The state of the block (10_state.md section 1), the inputs a step takes, and the state after reset. -/

namespace Sys2Proof.Machine

/-- The Duty-Cycle State (R16). -/
inductive DutyState where
  | idle
  | stabilising
  | waiting
  deriving DecidableEq, Repr

/-- The three outputs (R24). -/
inductive Channel where
  | pm1_0
  | pm2_5
  | pm10_0
  deriving DecidableEq, Repr

/-- The event codes of R200, R206. -/
inductive Event where
  | e1
  | e2
  | e3
  | e4
  | e5
  | ok
  deriving DecidableEq, Repr

/-- The decoder's answer for one byte (00_scope.md section 5). -/
inductive Verdict where
  | cont
  | reject
  | complete
  deriving DecidableEq, Repr

/-- What an operation answers to its caller: the value its rule's pseudocode returns, or, for an operation of the
tick that may end it, whether the tick ends. MODEL'S OWN, log 5. -/
inductive Answer where
  | nothing
  | verdict (v : Verdict)
  | verdicts (vs : List Verdict)
  | frame (bytes : List Byte)
  | readings (pm1_0 pm2_5 pm10_0 : Half)
  | cycling (cyc : Bool)
  | tickEnds
  | tickGoesOn
  deriving DecidableEq, Repr

/-- One move of the environment (R71, R252), or the call of one operation alone (log 1, log 2). -/
inductive Stimulus where
  | rx (bytes : List Byte)       -- these bytes join the tail of `RXQ`
  | readFails (after : Nat)      -- that many more reads succeed, then one fails (R185)
  | tick (now : Time)            -- the scheduler calls TICK at this time
  | call (word : List Byte)      -- MODEL'S OWN: run the operation of this call word
  deriving DecidableEq, Repr

/-- The frame buffer's bytes: cells with rising addresses, none equal to what an unlisted one reads as
(`Memory.unlisted`). -/
abbrev Memory := List Host.Cell

structure State where
  /-- `FB` (R10). -/
  fb : Memory
  /-- `CUR` (R12). -/
  cur : BitVec 7
  /-- `DS` (R16). -/
  ds : DutyState
  /-- `LMT`, `FPT`, `LBT` (R26). -/
  lmt : Time
  fpt : Time
  lbt : Time
  /-- `INIT` (R18), `PEND` (R19), `WARN` (R21). -/
  init : Bool
  pend : Bool
  warn : Bool
  /-- `UI` and the attachments (R28). -/
  ui : Time
  attPm1_0 : Bool
  attPm2_5 : Bool
  attPm10_0 : Bool
  /-- `RXQ` (R22), oldest byte first. -/
  rxq : List Byte
  /-- `TXQ` (R23), `PUBQ` (R24), `EVQ` (R25), oldest first. -/
  txq : List Byte
  pubq : List (Channel × Half)
  evq : List Event
  /-- The input `now` (R27). -/
  now : Time
  /-- `RX_ERR` (R185): how many more reads succeed before one fails; `none` is never. -/
  rxErr : Option Nat
  /-- The moves still to come, next first. MODEL'S OWN, log 1. -/
  script : List Stimulus
  /-- What the last operation answered. MODEL'S OWN, log 5. -/
  ans : Answer
  deriving DecidableEq, Repr

/-- The block has no fault: "no condition is ever fatal" (R200, R253). No operation raises one. -/
inductive Fault where
  deriving DecidableEq, Repr

inductive Refusal where
  /-- An arm of `exec` with no meaning yet; raised by `exec` only; safe. -/
  | notModelled (mnemonic : String)
  /-- A call word that is the word of no operation; raised by `step` only, never by a tick (log 2); safe. -/
  | undecodable (why : DecodeReject)
  deriving DecidableEq, Repr

/-- The state after RESET with a configuration (R230, R231): marks and flags 0, `Idle`, queues empty. The bytes of
`FB` are unspecified by R230; here none is listed (log 7). -/
def State.resetWith (ui : Time) (attPm1_0 attPm2_5 attPm10_0 : Bool) : State where
  fb := []
  cur := 0
  ds := .idle
  lmt := 0
  fpt := 0
  lbt := 0
  init := false
  pend := false
  warn := false
  ui := ui
  attPm1_0 := attPm1_0
  attPm2_5 := attPm2_5
  attPm10_0 := attPm10_0
  rxq := []
  txq := []
  pubq := []
  evq := []
  now := 0
  rxErr := none
  script := []
  ans := .nothing

/-- The machine right after reset, with the configuration of Config.lean (log 6). -/
def State.reset : State :=
  State.resetWith Config.updateInterval Config.attached Config.attached Config.attached

end Sys2Proof.Machine
end

