-- ==== Sys2Proof/Machine/Ops.lean ====
section
/-! DEFINITION. The named operations every meaning is written over: the frame buffer, the boundary (RxPop, TxPush,
Publish, Event), the verdict actions, and REJECT, which is how the block takes an exception. -/

namespace Sys2Proof.Machine

/-! ### The frame buffer -/

/-- What an unlisted byte of `FB` reads as: `FB` at reset is unspecified (R230). DESIGN CHOICE, log 7, unsafe. -/
def Memory.unlisted : Byte := 0

/-- `MemRead(a, 1)`. -/
def Memory.read : Memory → Nat → Byte
  | [], _ => Memory.unlisted
  | (k, v) :: rest, a => if k = a then v else Memory.read rest a

/-- `MemWrite(a, 1, v)`, keeping the canonical form: writing the unlisted value takes the entry out. -/
def Memory.write : Memory → Nat → Byte → Memory
  | [], a, v => if v = Memory.unlisted then [] else [(a, v)]
  | (k, w) :: rest, a, v =>
    if a < k then if v = Memory.unlisted then (k, w) :: rest else (a, v) :: (k, w) :: rest
    else if a = k then if v = Memory.unlisted then rest else (a, v) :: rest
    else (k, w) :: Memory.write rest a v

/-- The canonical form above a bound: addresses from `lo` up to the capacity, strictly rising, no unlisted value. -/
def Memory.wfFrom : Nat → Memory → Bool
  | _, [] => true
  | lo, (k, v) :: rest =>
    decide (lo ≤ k) && decide (k < Params.bufCap) && decide (v ≠ Memory.unlisted) && Memory.wfFrom (k + 1) rest

/-- The canonical form of a memory. -/
def Memory.wf (m : Memory) : Bool := Memory.wfFrom 0 m

/-- `FB[i]`. -/
def State.fbAt (s : State) (i : Nat) : Byte := Memory.read s.fb i

/-- `BE16(i) = MemRead(i, 2)` (R41, R65). -/
def State.be16 (s : State) (i : Nat) : Half := joinBytes (s.fbAt i) (s.fbAt (i + 1))

/-- `FB[a..a+n-1]`. -/
def State.fbRange (s : State) (a : Nat) : Nat → List Byte
  | 0 => []
  | n + 1 => s.fbAt a :: State.fbRange s (a + 1) n

/-- `FB[a] <- v`. -/
def State.storeFb (s : State) (a : Nat) (v : Byte) : State := { s with fb := Memory.write s.fb a v }

/-! ### Named state elements -/

def State.setCur (s : State) (c : BitVec 7) : State := { s with cur := c }
def State.setPend (s : State) (p : Bool) : State := { s with pend := p }
def State.setWarn (s : State) (w : Bool) : State := { s with warn := w }
def State.setDs (s : State) (d : DutyState) : State := { s with ds := d }

/-! ### The boundary (00_scope.md section 5) -/

/-- `TxPush` of each byte in order; it cannot fail (R23, log 25). -/
def State.txPush (s : State) (bytes : List Byte) : State := { s with txq := s.txq ++ bytes }

/-- `Publish(ch, v)` (R24). -/
def State.publish (s : State) (ch : Channel) (v : Half) : State := { s with pubq := s.pubq ++ [(ch, v)] }

/-- `Event(code)` (R25). -/
def State.logEvent (s : State) (e : Event) : State := { s with evq := s.evq ++ [e] }

/-- `RxAvail()`. -/
def State.rxAvail (s : State) : Nat := s.rxq.length

/-- The value an operation returns to its caller (log 5). -/
def State.answer (s : State) (a : Answer) : State := { s with ans := a }

/-! ### Taking an exception, and the other two verdict actions -/

/-- The two warning causes (R113, R202, R203; that they set `WARN` is D13, log 16). -/
def warns : Cause → Bool
  | .length | .checksum => true
  | .framing | .overflow => false

/-- The event code of a cause (R200, R206; log 15). -/
def causeEvent : Cause → Event
  | .framing => .e1
  | .length => .e2
  | .checksum => .e3
  | .overflow => .e5

/-- REJECT (R113, R209): the cursor goes to 0, the two warning causes set `WARN`, one event is logged; nothing is
saved, nothing else changes, and the next byte is decoded at index 0. There is no return operation (R210). -/
def reject (c : Cause) (s : State) : Verdict × State :=
  let s := s.setCur 0
  let s := if warns c then s.setWarn true else s
  (.reject, s.logEvent (causeEvent c))

/-- CONTINUE (R112). A tick runs it below the capacity only; forced past it, the 7 bits wrap (log 10). -/
def continueFrame (s : State) : Verdict × State :=
  (.cont, s.setCur (s.cur + 1))

/-- COMPLETE (R114): the verdict alone; the caller runs ON_COMPLETE (log 14). -/
def completeFrame (s : State) : Verdict × State :=
  (.complete, s)

end Sys2Proof.Machine
end

