-- ==== Sys2Proof/Machine/Flags.lean ====
section
/-! DEFINITION. The conditions the block tests: mode, timed comparisons, checksums, the length field, the publication
guard. Time differences are modulo 2^32 and compares unsigned (R26, R243, D3). -/

namespace Sys2Proof.Machine

/-- `CYC = (UI > 45000)` (R29, R160). -/
def State.cyc (s : State) : Bool := decide (Params.stabMs < s.ui)

/-- `now -_32 mark`. -/
def State.since (s : State) (mark : Time) : Time := s.now - mark

/-- Stay `Idle` (R162): `now -_32 LMT < UI - 45000`. -/
def State.offTimeRuns (s : State) : Bool := decide (s.since s.lmt < s.ui - Params.stabMs)

/-- Stay `Stabilising` (R163): `now -_32 FPT < 45000`. -/
def State.warmUpRuns (s : State) : Bool := decide (s.since s.fpt < Params.stabMs)

/-- Continuous gate closed (R166): `now -_32 LMT < UI`. -/
def State.gateClosed (s : State) : Bool := decide (s.since s.lmt < s.ui)

/-- Stale (R181): `now -_32 LBT > 500`, strict. -/
def State.silent (s : State) : Bool := decide (Params.staleMs < s.since s.lbt)

/-- The byte loop will take at least one byte: bytes are offered and the first read does not fail (D21, R185). -/
def State.takesByte (s : State) : Bool := decide (s.rxq ≠ []) && decide (s.rxErr ≠ some 0)

/-- `BE16(2) = 28` (R104). -/
def State.lengthOk (s : State) : Bool := s.be16 2 = Params.measLen

/-- `sum16(FB[0..29]) = BE16(30)` (R106). -/
def State.measSumOk (s : State) : Bool := chk16 (s.fbRange 0 30) = s.be16 30

/-- `0xFF -_8 sum8(FB[0..7]) = FB[8]` (R110). -/
def State.ackSumOk (s : State) : Bool := chk8 (s.fbRange 0 8) = s.fbAt 8

/-- The publication guard (R151): `FB[1] = 0x86` and `PEND = 1`. -/
def State.mayPublish (s : State) : Bool := s.fbAt 1 = Params.replyCode && s.pend

/-! ### The dispatch words of R66 -/

/-- SEL8: `PEND` in bit 7, `CUR` in bits 6 to 0. -/
def State.sel8 (s : State) : Byte := BitVec.ofNat 8 ((if s.pend then 128 else 0) + s.cur.toNat)

/-- The table's own code of `DS`. -/
def dsCode : DutyState → Nat
  | .idle => 0
  | .stabilising => 1
  | .waiting => 2

/-- TSEL4: `INIT` in bit 3, `CYC` in bit 2, `DS` in bits 1 to 0. -/
def State.tsel4 (s : State) : Byte :=
  BitVec.ofNat 8 ((if s.init then 8 else 0) + (if s.cyc then 4 else 0) + dsCode s.ds)

end Sys2Proof.Machine
end

