-- ==== Sys2Proof/Machine/Decoder.lean ====
section
/-! DEFINITION. The incremental byte parser (40_decode.md): DECODE, one operation per index class of each shape, the
verdict actions, and the batch reference CLASSIFY. -/

namespace Sys2Proof.Machine

/-! ### Measurement shape -/

/-- DEC.M0 (R101). -/
def decM0 (b : Byte) (s : State) : Verdict × State :=
  if b = Params.pre0 then continueFrame s else reject .framing s

/-- DEC.M1 (R102). -/
def decM1 (b : Byte) (s : State) : Verdict × State :=
  if b = Params.pre1 then continueFrame s else reject .framing s

/-- DEC.M2 (R103): the length is tested at index 3 (D5, log 22). -/
def decM2 (s : State) : Verdict × State := continueFrame s

/-- DEC.M3 (R104). -/
def decM3 (s : State) : Verdict × State :=
  if s.lengthOk then continueFrame s else reject .length s

/-- DEC.MB (R105). -/
def decMb (s : State) : Verdict × State := continueFrame s

/-- DEC.M31 (R106). -/
def decM31 (s : State) : Verdict × State :=
  if s.measSumOk then completeFrame s else reject .checksum s

/-- DEC.MX (R107; D6, log 22). -/
def decMx (s : State) : Verdict × State := reject .framing s

/-! ### Ack shape -/

/-- DEC.A0 (R108). -/
def decA0 (b : Byte) (s : State) : Verdict × State :=
  if b = Params.ack0 then continueFrame s else reject .framing s

/-- DEC.AB (R109). -/
def decAb (s : State) : Verdict × State := continueFrame s

/-- DEC.A8 (R110). -/
def decA8 (s : State) : Verdict × State :=
  if s.ackSumOk then completeFrame s else reject .checksum s

/-- DEC.AX (R111; D6, log 22). -/
def decAx (s : State) : Verdict × State := reject .framing s

/-! ### DECODE -/

/-- The measurement-shape dispatch of R100, the byte already stored at index `i`. -/
def decodeMeasAt (i : Nat) (b : Byte) (s : State) : Verdict × State :=
  if i = 0 then decM0 b s
  else if i = 1 then decM1 b s
  else if i = 2 then decM2 s
  else if i = 3 then decM3 s
  else if i ≤ 30 then decMb s
  else if i = 31 then decM31 s
  else decMx s

/-- The ack-shape dispatch of R100. -/
def decodeAckAt (i : Nat) (b : Byte) (s : State) : Verdict × State :=
  if i = 0 then decA0 b s
  else if i ≤ 7 then decAb s
  else if i = 8 then decA8 s
  else decAx s

/-- DECODE (R100): bounds check before any write, then store, then dispatch on `PEND`, read afresh for every
byte (R52), and on the index. -/
def decodeByte (b : Byte) (s : State) : Verdict × State :=
  if Params.bufCap ≤ s.cur.toNat then reject .overflow s
  else
    let i := s.cur.toNat
    let s := s.storeFb i b
    if s.pend then decodeAckAt i b s else decodeMeasAt i b s

/-! ### CLASSIFY -/

/-- The scan of R116: `PEND` stays as it is, and a Complete puts the cursor to 0 as ON_COMPLETE would. -/
def classifyScan : List Byte → State → List Verdict
  | [], _ => []
  | b :: rest, s =>
    match decodeByte b s with
    | (.complete, t) => .complete :: classifyScan rest (t.setCur 0)
    | (v, t) => v :: classifyScan rest t

/-- CLASSIFY (R116): a reference function, run on a copy of the state with its own `CUR` and `PEND` (log 12). -/
def classify (k : Shape) (bytes : List Byte) (s : State) : List Verdict :=
  classifyScan bytes ((s.setCur 0).setPend (k = .ack))

/-! ### Meanings -/

/-- The outcome of an operation that returns a verdict (log 5). -/
def nextVerdict (r : Verdict × State) : Host.Outcome State Fault Refusal :=
  .next (r.2.answer (.verdict r.1))

/-- DECODE.OVF (R100): Reject with code E5, the byte not stored. -/
def execDecodeOvf (s : State) : Host.Outcome State Fault Refusal := nextVerdict (reject .overflow s)

def execDecM0 (b : Byte) (s : State) : Host.Outcome State Fault Refusal := nextVerdict (decM0 b s)
def execDecM1 (b : Byte) (s : State) : Host.Outcome State Fault Refusal := nextVerdict (decM1 b s)
def execDecM2 (s : State) : Host.Outcome State Fault Refusal := nextVerdict (decM2 s)
def execDecM3 (s : State) : Host.Outcome State Fault Refusal := nextVerdict (decM3 s)
def execDecMb (s : State) : Host.Outcome State Fault Refusal := nextVerdict (decMb s)
def execDecM31 (s : State) : Host.Outcome State Fault Refusal := nextVerdict (decM31 s)
def execDecMx (s : State) : Host.Outcome State Fault Refusal := nextVerdict (decMx s)
def execDecA0 (b : Byte) (s : State) : Host.Outcome State Fault Refusal := nextVerdict (decA0 b s)
def execDecAb (s : State) : Host.Outcome State Fault Refusal := nextVerdict (decAb s)
def execDecA8 (s : State) : Host.Outcome State Fault Refusal := nextVerdict (decA8 s)
def execDecAx (s : State) : Host.Outcome State Fault Refusal := nextVerdict (decAx s)

/-- DECODE (R100); on Complete the caller runs ON_COMPLETE (R114, log 14). -/
def execDecode (b : Byte) (s : State) : Host.Outcome State Fault Refusal := nextVerdict (decodeByte b s)

/-- CONTINUE (R112). -/
def execCont (s : State) : Host.Outcome State Fault Refusal := nextVerdict (continueFrame s)

/-- REJECT (R113). -/
def execReject (c : Cause) (s : State) : Host.Outcome State Fault Refusal := nextVerdict (reject c s)

/-- COMPLETE (R114). -/
def execComplete (s : State) : Host.Outcome State Fault Refusal := nextVerdict (completeFrame s)

/-- CLASSIFY (R116). -/
def execClassify (k : Shape) (bytes : List Byte) (s : State) : Host.Outcome State Fault Refusal :=
  .next (s.answer (.verdicts (classify k bytes s)))

end Sys2Proof.Machine
end

