-- ==== Sys2Proof/Machine/Encoder.lean ====
section
/-! DEFINITION. The command encoder (41_encode.md). -/

namespace Sys2Proof.Machine

/-- SEND (R131): the nine bytes in index order; code 0x86 sets `PEND`, any other code leaves it (D16, log 17). -/
def send (cmd data : Byte) (s : State) : State :=
  let s := s.txPush (commandFrame cmd data)
  if cmd = Params.cmdTrigger then s.setPend true else s

/-- The five commands (R132 to R136). -/
def sendModeQa (s : State) : State := send Params.cmdMode 0x41 s
def sendModeActive (s : State) : State := send Params.cmdMode 0x40 s
def sendTrigger (s : State) : State := send Params.cmdTrigger 0x00 s
def sendPowerOn (s : State) : State := send Params.cmdPower 0x00 s
def sendStandby (s : State) : State := send Params.cmdPower 0x01 s

/-! ### Meanings -/

/-- SET_MODE_QA (R132). -/
def execSetModeQa (s : State) : Host.Outcome State Fault Refusal :=
  .next ((sendModeQa s).answer .nothing)

/-- SET_MODE_ACTIVE (R133). -/
def execSetModeActive (s : State) : Host.Outcome State Fault Refusal :=
  .next ((sendModeActive s).answer .nothing)

/-- TRIGGER (R134). -/
def execTrigger (s : State) : Host.Outcome State Fault Refusal :=
  .next ((sendTrigger s).answer .nothing)

/-- POWER_ON (R135). -/
def execPowerOn (s : State) : Host.Outcome State Fault Refusal :=
  .next ((sendPowerOn s).answer .nothing)

/-- STANDBY (R136). -/
def execStandby (s : State) : Host.Outcome State Fault Refusal :=
  .next ((sendStandby s).answer .nothing)

/-- ENCODE (R130): "Reads and writes no state"; it returns the nine bytes. -/
def execEncode (cmd data : Byte) (s : State) : Host.Outcome State Fault Refusal :=
  .next (s.answer (.frame (commandFrame cmd data)))

/-- SEND (R131). -/
def execSend (cmd data : Byte) (s : State) : Host.Outcome State Fault Refusal :=
  .next ((send cmd data s).answer .nothing)

end Sys2Proof.Machine
end

