-- ==== Sys2Proof/Machine/Duty.lean ====
section
/-! DEFINITION. The duty-cycle state machine (43_duty_cycle.md), DRAIN (R184) and the INIT latch. -/

namespace Sys2Proof.Machine

/-- DRAIN (R184): `RXQ` emptied, nothing decoded, nothing else touched (D10, log 19). A read that fails ends the
drain and leaves the bytes not yet taken (R185, log 13). -/
def drain (s : State) : State :=
  match s.rxErr with
  | none => { s with rxq := [] }
  | some n =>
    if n < s.rxq.length then { s with rxq := s.rxq.drop n, rxErr := none }
    else { s with rxq := [], rxErr := some (n - s.rxq.length) }

/-- INIT (R161): the reporting-mode command of the mode (D7, log 18), once. -/
def initOp (s : State) : State :=
  if s.init then s
  else
    let s := if s.cyc then sendModeQa s else sendModeActive s
    { s with init := true }

/-- DUTY.IDLE (R162): the tick ends on both paths (D9, log 18). -/
def dutyIdle (s : State) : State :=
  if s.offTimeRuns then s
  else
    let s := sendPowerOn s
    { s with fpt := s.now, ds := .stabilising }

/-- DUTY.STAB (R163): drain, then trigger; the tick ends on both paths (D9, log 18). -/
def dutyStab (s : State) : State :=
  if s.warmUpRuns then s
  else (sendTrigger (drain s)).setDs .waiting

/-- DUTY.DONE (R165). -/
def dutyDone (s : State) : State :=
  ((sendStandby s).setDs .idle).setWarn false

/-! ### Meanings -/

/-- MODE (R160): which machine runs; no state is written. -/
def execMode (s : State) : Host.Outcome State Fault Refusal :=
  .next (s.answer (.cycling s.cyc))

/-- INIT (R161): it does not end the tick (D8). -/
def execInit (s : State) : Host.Outcome State Fault Refusal :=
  .next ((initOp s).answer .tickGoesOn)

/-- DUTY.IDLE (R162). -/
def execDutyIdle (s : State) : Host.Outcome State Fault Refusal :=
  .next ((dutyIdle s).answer .tickEnds)

/-- DUTY.STAB (R163). -/
def execDutyStab (s : State) : Host.Outcome State Fault Refusal :=
  .next ((dutyStab s).answer .tickEnds)

/-- DUTY.WAIT (R164): "no action and no `return`". -/
def execDutyWait (s : State) : Host.Outcome State Fault Refusal :=
  .next (s.answer .tickGoesOn)

/-- DUTY.DONE (R165). -/
def execDutyDone (s : State) : Host.Outcome State Fault Refusal :=
  .next ((dutyDone s).answer .nothing)

/-- CONT.GATE (R166): the tick ends while the gate is closed. -/
def execContGate (s : State) : Host.Outcome State Fault Refusal :=
  .next (s.answer (if s.gateClosed then .tickEnds else .tickGoesOn))

/-- DRAIN (R184). -/
def execDrain (s : State) : Host.Outcome State Fault Refusal :=
  .next ((drain s).answer .nothing)

end Sys2Proof.Machine
end

