-- ==== Sys2Proof/Machine/Parser.lean ====
section
/-! DEFINITION. The measurement parser and the completion sequence (42_measurement_parser.md). -/

namespace Sys2Proof.Machine

/-- EXTRACT (R150): PM1.0 at offset 6, PM2.5 at 2, PM10.0 at 4, from the start of the frame. -/
def extract (s : State) : Half × Half × Half :=
  (s.be16 6, s.be16 2, s.be16 4)

/-- Publish on one output if it is attached (R151). -/
def publishIf (attached : Bool) (ch : Channel) (v : Half) (s : State) : State :=
  if attached then s.publish ch v else s

/-- PUBLISH (R151): the guard, then the three outputs in the order of D15 (log 21). -/
def publishReadings (pm1_0 pm2_5 pm10_0 : Half) (s : State) : State :=
  if s.mayPublish then
    publishIf s.attPm10_0 .pm10_0 pm10_0
      (publishIf s.attPm2_5 .pm2_5 pm2_5
        (publishIf s.attPm1_0 .pm1_0 pm1_0 s))
  else s

/-- ON_COMPLETE (R153): publish while `PEND` still stands, then `LMT`, `PEND`, `CUR`, then the end of the cycle. -/
def onComplete (s : State) : State :=
  let (pm1_0, pm2_5, pm10_0) := extract s
  let s := publishReadings pm1_0 pm2_5 pm10_0 s
  let s := s.logEvent .ok
  let s := (({ s with lmt := s.now } : State).setPend false).setCur 0
  if s.cyc then dutyDone s else s

/-! ### Meanings -/

/-- EXTRACT (R150): "No state is written"; it returns the three values. -/
def execExtract (s : State) : Host.Outcome State Fault Refusal :=
  .next (s.answer (.readings (extract s).1 (extract s).2.1 (extract s).2.2))

/-- PUBLISH (R151). -/
def execPublish (pm1_0 pm2_5 pm10_0 : Half) (s : State) : Host.Outcome State Fault Refusal :=
  .next ((publishReadings pm1_0 pm2_5 pm10_0 s).answer .nothing)

/-- ON_COMPLETE (R153). -/
def execOnComplete (s : State) : Host.Outcome State Fault Refusal :=
  .next ((onComplete s).answer .nothing)

end Sys2Proof.Machine
end

