-- ==== Sys2Proof/Machine/Driver.lean ====
section
/-! DEFINITION. The driver step (44_driver_step.md), the inbound frames, and RESET (R231). -/

namespace Sys2Proof.Machine

/-- STALE (R181): the cursor goes to 0 after more than 500 ms; the event only mid-frame (D17, log 24). -/
def stale (s : State) : State :=
  if s.silent then
    let s := if s.cur ≠ 0 then s.logEvent .e4 else s
    s.setCur 0
  else s

/-- The body of RXLOOP for one byte already popped: DECODE, and ON_COMPLETE on Complete (R183). -/
def receiveByte (b : Byte) (s : State) : State :=
  match decodeByte b s with
  | (.complete, t) => onComplete t
  | (_, t) => t

/-- The loop of RXLOOP over the bytes offered: each `RxPop` takes the oldest byte out of `RXQ`; no verdict stops the
loop; a read that fails delivers nothing and ends it (R185, log 13). -/
def receiveAll : List Byte → State → State
  | [], s => s
  | b :: rest, s =>
    match s.rxErr with
    | some 0 => { s with rxErr := none }
    | e => receiveAll rest (receiveByte b { s with rxq := rest, rxErr := e.map (· - 1) })

/-- `LBT <- now`, where the loop takes at least one byte (R26, R183 with D21, R246; log 13). -/
def stampRead (s : State) : State :=
  if s.takesByte then { s with lbt := s.now } else s

/-- RXLOOP (R183): the stamp of `LBT`, then every offered byte. -/
def rxLoop (s : State) : State :=
  receiveAll s.rxq (stampRead s)

/-- Steps 2 to 4 of TICK (R180): STALE, RXEMPTY, RXLOOP. -/
def readBytes (s : State) : State :=
  let s := stale s
  if s.rxAvail = 0 then s else rxLoop s

/-- TICK (R180) at the time `now` of the state: step 0 INIT, step 1 the duty machine, then the reading steps. -/
def tick (s : State) : State :=
  let s := initOp s
  if s.cyc then
    match s.ds with
    | .idle => dutyIdle s
    | .stabilising => dutyStab s
    | .waiting => readBytes s
  else if s.gateClosed then s
  else readBytes s

/-- An inbound frame (R61, R62): its bytes join the tail of `RXQ`, as the transport delivers them (R22), and RXLOOP
takes what is offered (log 11). -/
def receiveFrame (frame : List Byte) (s : State) : State :=
  rxLoop { s with rxq := s.rxq ++ frame }

/-- RESET (R231) with the configuration it latches: everything R230 gives a reset value; `FB`, whose reset content is
unspecified and which only DECODE writes (R11), and the environment's own fields keep theirs (log 9). -/
def resetOp (ui : Time) (attPm1_0 attPm2_5 attPm10_0 : Bool) (s : State) : State :=
  { State.resetWith ui attPm1_0 attPm2_5 attPm10_0 with
    fb := s.fb, now := s.now, rxErr := s.rxErr, script := s.script }

/-! ### Meanings -/

/-- ACK (R61). -/
def execAck (body : List Byte) (chk : Byte) (s : State) : Host.Outcome State Fault Refusal :=
  .next ((receiveFrame (ackFrame body chk) s).answer .nothing)

/-- REPLY86 (R151, R61). -/
def execReply86 (pm2_5 pm10_0 pm1_0 : Half) (chk : Byte) (s : State) : Host.Outcome State Fault Refusal :=
  .next ((receiveFrame (ackFrame (replyBody pm2_5 pm10_0 pm1_0) chk) s).answer .nothing)

/-- MEAS (R62). -/
def execMeas (data : List Byte) (chk : Half) (s : State) : Host.Outcome State Fault Refusal :=
  .next ((receiveFrame (measFrame data chk) s).answer .nothing)

/-- TICK (R180). -/
def execTick (s : State) : Host.Outcome State Fault Refusal :=
  .next ((tick s).answer .nothing)

/-- STALE (R181). -/
def execStale (s : State) : Host.Outcome State Fault Refusal :=
  .next ((stale s).answer .tickGoesOn)

/-- RXEMPTY (R182): the tick ends where nothing is offered; no state is written. -/
def execRxempty (s : State) : Host.Outcome State Fault Refusal :=
  .next (s.answer (if s.rxAvail = 0 then .tickEnds else .tickGoesOn))

/-- RXLOOP (R183). -/
def execRxloop (s : State) : Host.Outcome State Fault Refusal :=
  .next ((rxLoop s).answer .nothing)

/-- RESET (R231). -/
def execReset (ui : Time) (attPm1_0 attPm2_5 attPm10_0 : Bool) (s : State) : Host.Outcome State Fault Refusal :=
  .next (resetOp ui attPm1_0 attPm2_5 attPm10_0 s)

end Sys2Proof.Machine
end

