-- ==== Sys2Proof/Machine/Dispatch.lean ====
section
/-! DEFINITION. The meaning of each operation, one arm per constructor of `Instr`. -/

namespace Sys2Proof.Machine

def exec (i : Instr) (s : State) : Host.Outcome State Fault Refusal :=
  match i with
  | .setModeQa => Sys2Proof.Machine.execSetModeQa s
  | .setModeActive => Sys2Proof.Machine.execSetModeActive s
  | .trigger => Sys2Proof.Machine.execTrigger s
  | .powerOn => Sys2Proof.Machine.execPowerOn s
  | .standby => Sys2Proof.Machine.execStandby s
  | .encode cmd data => Sys2Proof.Machine.execEncode cmd data s
  | .ack body chk => Sys2Proof.Machine.execAck body chk s
  | .reply86 pm2_5 pm10_0 pm1_0 chk => Sys2Proof.Machine.execReply86 pm2_5 pm10_0 pm1_0 chk s
  | .meas data chk16 => Sys2Proof.Machine.execMeas data chk16 s
  | .decodeOvf => Sys2Proof.Machine.execDecodeOvf s
  | .decM0 b => Sys2Proof.Machine.execDecM0 b s
  | .decM1 b => Sys2Proof.Machine.execDecM1 b s
  | .decM2 => Sys2Proof.Machine.execDecM2 s
  | .decM3 => Sys2Proof.Machine.execDecM3 s
  | .decM31 => Sys2Proof.Machine.execDecM31 s
  | .decMb => Sys2Proof.Machine.execDecMb s
  | .decMx => Sys2Proof.Machine.execDecMx s
  | .decA0 b => Sys2Proof.Machine.execDecA0 b s
  | .decA8 => Sys2Proof.Machine.execDecA8 s
  | .decAb => Sys2Proof.Machine.execDecAb s
  | .decAx => Sys2Proof.Machine.execDecAx s
  | .init => Sys2Proof.Machine.execInit s
  | .dutyIdle => Sys2Proof.Machine.execDutyIdle s
  | .dutyStab => Sys2Proof.Machine.execDutyStab s
  | .dutyWait => Sys2Proof.Machine.execDutyWait s
  | .contGate => Sys2Proof.Machine.execContGate s
  | .decode b => Sys2Proof.Machine.execDecode b s
  | .cont => Sys2Proof.Machine.execCont s
  | .reject cause => Sys2Proof.Machine.execReject cause s
  | .complete => Sys2Proof.Machine.execComplete s
  | .classify shape bytes => Sys2Proof.Machine.execClassify shape bytes s
  | .send cmd data => Sys2Proof.Machine.execSend cmd data s
  | .extract => Sys2Proof.Machine.execExtract s
  | .publish pm1_0 pm2_5 pm10_0 => Sys2Proof.Machine.execPublish pm1_0 pm2_5 pm10_0 s
  | .onComplete => Sys2Proof.Machine.execOnComplete s
  | .mode => Sys2Proof.Machine.execMode s
  | .dutyDone => Sys2Proof.Machine.execDutyDone s
  | .tick => Sys2Proof.Machine.execTick s
  | .stale => Sys2Proof.Machine.execStale s
  | .rxempty => Sys2Proof.Machine.execRxempty s
  | .rxloop => Sys2Proof.Machine.execRxloop s
  | .drain => Sys2Proof.Machine.execDrain s
  | .reset ui attPm1_0 attPm2_5 attPm10_0 => Sys2Proof.Machine.execReset ui attPm1_0 attPm2_5 attPm10_0 s

end Sys2Proof.Machine
end

