-- ==== Sys2Proof/Machine/Fetch.lean ====
section
/-! DEFINITION. What one step does: the next line of the script (R71, R252). -/

namespace Sys2Proof.Machine

/-- The scheduler calls TICK at a time (R180, R252). -/
def runTick (t : Time) (s : State) : Host.Outcome State Fault Refusal :=
  exec .tick { s with now := t }

/-- The environment appends bytes to the tail of `RXQ` (R22). -/
def deliver (bytes : List Byte) (s : State) : State := { s with rxq := s.rxq ++ bytes }

/-- The transport will fail a read (R185). -/
def armReadFailure (after : Nat) (s : State) : State := { s with rxErr := some after }

/-- The call of one operation alone (log 2). -/
def runCall (word : List Byte) (s : State) : Host.Outcome State Fault Refusal :=
  match decode word with
  | .ok i => exec i s
  | .error why => .refused (.undecodable why)

/-- One line of the script, the lines behind it left in place. With no line left the scheduler calls TICK again at the
same time, which R27 and R252 allow (log 1). -/
def runLine (s : State) : Host.Outcome State Fault Refusal :=
  match s.script with
  | [] => runTick s.now s
  | .rx bytes :: rest => .next (deliver bytes { s with script := rest })
  | .readFails after :: rest => .next (armReadFailure after { s with script := rest })
  | .tick t :: rest => runTick t { s with script := rest }
  | .call word :: rest => runCall word { s with script := rest }

end Sys2Proof.Machine
end

