-- ==== Sys2Proof/Machine/Step.lean ====
section
/-! DEFINITION. One step, and the placing of a table word for the next step. -/

namespace Sys2Proof.Machine

def step (s : State) : Host.Outcome State Fault Refusal := runLine s

/-- The call of a table word's operation becomes the next line of the script. -/
def State.withFetchWord (s : State) (nbits w : Nat) : State :=
  { s with script := .call (tableWord nbits w) :: s.script }

end Sys2Proof.Machine
end

