-- ==== Sys2Proof/Safety.lean ====
section
/-! DEFINITION. What claims about whole runs are stated in: the invariant of the states a run from RESET reaches when
the environment makes only the moves of R252, and the history of commands sent. -/

namespace Sys2Proof.Machine

/-- A line the environment itself may make (R252); calls of one operation alone are the model's own (log 2). -/
def Stimulus.isMove : Stimulus → Bool
  | .call _ => false
  | _ => true

/-- The call of TICK alone. -/
def Stimulus.isTick : Stimulus → Bool
  | .tick _ => true
  | _ => false

/-- Only moves of R252 are to come. -/
def State.onlyMoves (s : State) : Bool := s.script.all Stimulus.isMove

/-- What every reachable state satisfies. -/
structure State.Inv (s : State) : Prop where
  /-- The frame buffer is in its canonical form, so no byte past the capacity was ever written (R13, R43). -/
  fbWf : Memory.wf s.fb = true
  /-- `CUR <= 31` (R13). -/
  curBound : s.cur.toNat ≤ 31
  /-- `PEND = 1` exactly when `CYC` and `DS = Waiting` (R20). -/
  pendIff : s.pend = true ↔ s.cyc = true ∧ s.ds = .waiting
  /-- In continuous mode `DS` keeps `Idle` (R16). -/
  idleIfContinuous : s.cyc = false → s.ds = .idle
  /-- Before the first tick the duty machine has not moved (R18, R233). -/
  idleBeforeFirstTick : s.init = false → s.ds = .idle
  /-- The script holds moves of R252 only. -/
  moves : s.onlyMoves = true

/-! ### The commands sent (R137) -/

/-- The five frames the block sends (R66). -/
inductive Command where
  | modeQa
  | modeActive
  | trigger
  | powerOn
  | standby
  deriving DecidableEq, Repr

/-- Their wire bytes, as R66 prints them. -/
def Command.bytes : Command → List Byte
  | .modeQa => [0xFF, 0x01, 0x78, 0x41, 0, 0, 0, 0, 0x46]
  | .modeActive => [0xFF, 0x01, 0x78, 0x40, 0, 0, 0, 0, 0x47]
  | .trigger => [0xFF, 0x01, 0x86, 0x00, 0, 0, 0, 0, 0x79]
  | .powerOn => [0xFF, 0x01, 0xA7, 0x00, 0, 0, 0, 0, 0x58]
  | .standby => [0xFF, 0x01, 0xA7, 0x01, 0, 0, 0, 0, 0x57]

/-- The bytes of a sequence of commands. -/
def wire (cs : List Command) : List Byte := cs.flatMap Command.bytes

/-- The command sequences of cycling mode, with the duty state they leave: SET_MODE_QA first (R161), then POWER_ON
(R162), TRIGGER (R163) and STANDBY (R165) round the cycle, where STANDBY repeats for each further frame that
completes (R165). -/
inductive CycleHistory : DutyState → List Command → Prop where
  | start : CycleHistory .idle [.modeQa]
  | on {l : List Command} : CycleHistory .idle l → CycleHistory .stabilising (l ++ [.powerOn])
  | asked {l : List Command} : CycleHistory .stabilising l → CycleHistory .waiting (l ++ [.trigger])
  | done {l : List Command} : CycleHistory .waiting l → CycleHistory .idle (l ++ [.standby])
  | again {l : List Command} : CycleHistory .idle (l ++ [.standby]) → CycleHistory .idle (l ++ [.standby, .standby])

/-- What `TXQ` holds: nothing before the first tick; then, in continuous mode, SET_MODE_ACTIVE alone (R137), and in
cycling mode the wire bytes of a history that ends in the present duty state. -/
def State.SentAsTold (s : State) : Prop :=
  if s.init then
    if s.cyc then ∃ cs, CycleHistory s.ds cs ∧ s.txq = wire cs
    else s.txq = Command.bytes .modeActive
  else s.txq = []

/-! ### Numbers read from bytes -/

/-- The sum of the bytes as a number. -/
def byteSum (l : List Byte) : Nat := (l.map BitVec.toNat).sum

/-- `FB[0..n-1]`, each byte by one read. -/
def frameBytes (s : State) (n : Nat) : List Byte := (List.range n).map s.fbAt

/-! ### What two states have in common -/

/-- Two states that differ in nothing but bytes of `FB` at or above the cursor: bytes that the frame in progress has
not written (R11). -/
def State.SameButStaleBytes (s t : State) : Prop :=
  { s with fb := t.fb } = t ∧ ∀ a, a < s.cur.toNat → s.fbAt a = t.fbAt a

end Sys2Proof.Machine
end

