-- ==== Sys2Proof/Certificates/Slice0/Obligations.lean ====
section
/-! DEFINITION. The statements. Each docstring names the rules of spec/ it says. Where a record update is the
conclusion, it says the frame too: every field not named is what it was. The field `ans` is where the model holds
the value an operation returns (log 5). Event codes are the spec's own (R206, D14, log 15). -/

open Sys2Proof Sys2Proof.Machine

namespace Sys2Proof.Machine

/-! ### Words the statements use -/

/-- The state after a byte that continues. -/
def advanced (s : State) : State := { s with cur := s.cur + 1, ans := .verdict .cont }

/-- The state after a silent reject (E1). -/
def rejectedSilently (s : State) : State :=
  { s with cur := 0, evq := s.evq ++ [.e1], ans := .verdict .reject }

/-- The state after a reject that warns. -/
def rejectedWithWarning (e : Event) (s : State) : State :=
  { s with cur := 0, warn := true, evq := s.evq ++ [e], ans := .verdict .reject }

/-- The pairs PUBLISH appends once its guard passed, one per attached output (R151, D15). -/
def pairs (s : State) (pm1_0 pm2_5 pm10_0 : Half) : List (Channel × Half) :=
  (if s.attPm1_0 then [(Channel.pm1_0, pm1_0)] else []) ++
    (if s.attPm2_5 then [(Channel.pm2_5, pm2_5)] else []) ++
      (if s.attPm10_0 then [(Channel.pm10_0, pm10_0)] else [])

/-- The receiver is at the start of a frame of the shape `p` selects, with nothing queued and no read failure. -/
structure ReadyFor (p : Bool) (s : State) : Prop where
  fbWf : Memory.wf s.fb = true
  shape : s.pend = p
  start : s.cur = 0
  queue : s.rxq = []
  noError : s.rxErr = none

/-- `t` is `s` after a completed frame that published `out` (R153). -/
def CompletedFrom (s : State) (out : List (Channel × Half)) (t : State) : Prop :=
  t = { s with
    fb := t.fb
    lbt := s.now
    pubq := s.pubq ++ out
    evq := s.evq ++ [.ok]
    lmt := s.now
    pend := false
    cur := 0
    txq := if s.cyc then s.txq ++ Command.bytes .standby else s.txq
    ds := if s.cyc then .idle else s.ds
    warn := if s.cyc then false else s.warn
    ans := .nothing }

/-- `t` is `s` after a frame whose checksum failed (R203). -/
def ChecksumFailedFrom (s : State) (t : State) : Prop :=
  t = { s with
    fb := t.fb
    lbt := s.now
    cur := 0
    warn := true
    evq := s.evq ++ [.e3]
    ans := .nothing }

/-- `t` holds the frame in `FB` from index 0, and every other byte as in `s`. -/
def HoldsFrame (s : State) (frame : List Byte) (t : State) : Prop :=
  (∀ i, i < frame.length → t.fbAt i = frame.getD i 0) ∧ ∀ i, frame.length ≤ i → t.fbAt i = s.fbAt i

end Sys2Proof.Machine

/-! ### Encoding -/

/-- A sample of words written out from R60 to R62 and R66, one or more for each format. -/
def Obligations.SpecWordsDecode : Prop :=
  decode [0, 0xFF, 0x01, 0x78, 0x41, 0, 0, 0, 0, 0x46] = .ok .setModeQa ∧
  decode [0, 0xFF, 0x01, 0xA7, 0x01, 0, 0, 0, 0, 0x57] = .ok .standby ∧
  decode [0, 0xFF, 0x01, 0x12, 0x34, 0, 0, 0, 0, 0xB9] = .ok (.encode 0x12 0x34) ∧
  decode [0, 0xFF, 0x01, 0x12, 0x34, 0, 0, 0, 0, 0xBA] = .error .commandChecksum ∧
  decode [1, 0xFF, 0x86, 0x01, 0x23, 0x04, 0x56, 0x00, 0xAB, 0x51] = .ok (.reply86 0x0123 0x0456 0x00AB 0x51) ∧
  decode [1, 0xFF, 0x01, 0x86, 0, 0, 0, 0, 0, 0x79] = .ok (.ack [0x01, 0x86, 0, 0, 0, 0, 0] 0x79) ∧
  decode (2 :: [0x42, 0x4D, 0x00, 0x1C] ++ List.replicate 26 0 ++ [0x00, 0xAB]) =
    .ok (.meas (List.replicate 26 0) 0x00AB) ∧
  decode [3, 0x1F] = .ok .decM31 ∧ decode [3, 0x1E] = .ok .decMb ∧ decode [3, 0x87] = .ok .decAb ∧
  decode [4, 0x5] = .ok .dutyStab ∧ decode [5, 5, 0xA7, 0x01] = .ok (.send 0xA7 0x01)

/-- Decoding the encoding of a well-formed operation gives it back, every operand at every value. The words are the
spec's frames and selections (R60 to R62, R66) behind the model's format byte (log 3). -/
def Obligations.DecodeOfEncodeIsIdentity : Prop :=
  ∀ i : Instr, i.wf = true → decode (encode i) = .ok i

/-- The other direction, for the formats whose rows have one word for each term (all but SEL8 and TSEL4): a word
that decodes is the encoding of what it decodes to, so no bit of it is dropped, and the term is well formed. -/
def Obligations.DecodedWordIsTheEncoding : Prop :=
  ∀ (w : List Byte) (i : Instr), decode w = .ok i → w.head? ≠ some fmtSel → w.head? ≠ some fmtTick →
    i.wf = true ∧ encode i = w

/-! ### Steps -/

/-- A call in the script runs the operation its word decodes to. The call of one operation alone is the model's own move,
not one of R252 (log 2); the operations are those of R66. -/
def Obligations.StepRunsCalledOperation : Prop :=
  ∀ (s : State) (word : List Byte) (rest : List Stimulus) (i : Instr),
    s.script = .call word :: rest → decode word = .ok i → step s = exec i { s with script := rest }

/-- A step makes the next move of the environment (R252): TICK at a time, bytes to the tail of `RXQ`; or a read failure
to come (R185, log 13); with no move left TICK runs again at the same time (log 1). -/
def Obligations.StepMakesTheNextMove : Prop :=
  ∀ (s : State) (rest : List Stimulus),
    (∀ t, s.script = .tick t :: rest → step s = exec .tick { s with script := rest, now := t }) ∧
    (∀ bytes, s.script = .rx bytes :: rest →
      step s = .next { s with script := rest, rxq := s.rxq ++ bytes }) ∧
    (∀ n, s.script = .readFails n :: rest → step s = .next { s with script := rest, rxErr := some n }) ∧
    (s.script = [] → step s = exec .tick s)

/-- A table word placed for the next step runs as the operation the decoder reads from it (log 2, log 4). -/
def Obligations.PlacedWordRunsNext : Prop :=
  ∀ (s : State) (nbits w : Nat) (i : Instr), decodeTableWord nbits w = some i →
    step (s.withFetchWord nbits w) = exec i s

/-- The block has no fault and is never stuck (R200, R234, R253): every operation answers a next state in every
state; a step stops only on a call word of no operation, which is the model's own (log 2). -/
def Obligations.OnlyBadCallWordsStop : Prop :=
  (∀ (i : Instr) (s : State), ∃ t, exec i s = .next t) ∧
  ∀ s : State, (∃ t, step s = .next t) ∨
    ∃ word rest why, s.script = .call word :: rest ∧ decode word = .error why ∧
      step s = .refused (.undecodable why)

/-! ### The frame buffer -/

/-- A byte written inside the capacity is read back, every other byte reads as before, and the canonical form is
kept (R10, R41, R43); and two canonical frame buffers that read the same at every index are the same data. -/
def Obligations.FrameBufferStoreThenLoad : Prop :=
  (∀ (m : Memory) (a : Nat) (v : Byte), Memory.wf m = true → a < 64 →
    Memory.wf (Memory.write m a v) = true ∧
    ∀ i, Memory.read (Memory.write m a v) i = if i = a then v else Memory.read m i) ∧
  ∀ m n : Memory, Memory.wf m = true → Memory.wf n = true →
    (∀ i, Memory.read m i = Memory.read n i) → m = n

/-! ### The encoder -/

/-- ENCODE (R130): the nine bytes of R60, with the checksum in the form of R73; no state is written. -/
def Obligations.EncodeAnswersTheFrame : Prop :=
  ∀ (cmd data : Byte) (s : State),
    exec (.encode cmd data) s =
      .next { s with ans := .frame [0xFF, 0x01, cmd, data, 0, 0, 0, 0, 0 - (0x01 + cmd + data)] }

/-- SEND (R131): the nine bytes join `TXQ`; `PEND` is set by code 0x86 and left by any other (D16, log 17). -/
def Obligations.SendAppendsTheFrame : Prop :=
  ∀ (cmd data : Byte) (s : State),
    exec (.send cmd data) s =
      .next { s with
        txq := s.txq ++ [0xFF, 0x01, cmd, data, 0, 0, 0, 0, 0 - (0x01 + cmd + data)]
        pend := if cmd = 0x86 then true else s.pend
        ans := .nothing }

/-- SET_MODE_ACTIVE, TRIGGER, POWER_ON, STANDBY (R133 to R136): the wire bytes; TRIGGER alone sets `PEND`. -/
def Obligations.CommandsSendTheirFrames : Prop :=
  ∀ s : State,
    exec .setModeActive s =
      .next { s with txq := s.txq ++ [0xFF, 0x01, 0x78, 0x40, 0, 0, 0, 0, 0x47], ans := .nothing } ∧
    exec .trigger s =
      .next { s with txq := s.txq ++ [0xFF, 0x01, 0x86, 0x00, 0, 0, 0, 0, 0x79], pend := true, ans := .nothing } ∧
    exec .powerOn s =
      .next { s with txq := s.txq ++ [0xFF, 0x01, 0xA7, 0x00, 0, 0, 0, 0, 0x58], ans := .nothing } ∧
    exec .standby s =
      .next { s with txq := s.txq ++ [0xFF, 0x01, 0xA7, 0x01, 0, 0, 0, 0, 0x57], ans := .nothing }

/-- SET_MODE_QA (R132) and INIT (R161): the pair of cycling mode is the spec's choice (D7, log 18). INIT sends once,
by mode, and sets its flag; it does not end the tick (D8). -/
def Obligations.InitSendsTheModeCommandOnce : Prop :=
  ∀ s : State,
    exec .setModeQa s =
      .next { s with txq := s.txq ++ [0xFF, 0x01, 0x78, 0x41, 0, 0, 0, 0, 0x46], ans := .nothing } ∧
    exec .init s =
      .next { s with
        txq := if s.init then s.txq
          else if 45000 < s.ui.toNat then s.txq ++ [0xFF, 0x01, 0x78, 0x41, 0, 0, 0, 0, 0x46]
          else s.txq ++ [0xFF, 0x01, 0x78, 0x40, 0, 0, 0, 0, 0x47]
        init := true
        ans := .tickGoesOn }

/-- The round trip of R120: the frame ENCODE answers, decoded in the ack shape, gives eight Continue and a Complete
for every pair; and received by an ack-shape loop it leaves its own nine bytes in `FB`. -/
def Obligations.EncodedFrameDecodesAsAck : Prop :=
  ∀ (cmd data : Byte) (s : State), Memory.wf s.fb = true →
    ∃ f, exec (.encode cmd data) s = .next { s with ans := .frame f } ∧ f.length = 9 ∧
      exec (.classify .ack f) s =
        .next { s with ans := .verdicts (List.replicate 8 .cont ++ [.complete]) } ∧
      (s.pend = true → s.cur = 0 → s.rxq = f → s.rxErr = none →
        ∃ t, exec .rxloop s = .next t ∧ HoldsFrame s f t)

/-! ### The decoder -/

/-- DECODE below the capacity stores first and then is the operation that the table's row for `PEND` and `CUR`
names; at the capacity it is DECODE.OVF, and nothing is stored (R100, R66, R43). -/
def Obligations.DecodeStoresThenRunsItsRow : Prop :=
  ∀ (b : Byte) (s : State), s.cur.toNat ≤ 64 →
    ∃ i, (decode [fmtSel, s.sel8, b] = .ok i ∨ decode [fmtSel, s.sel8] = .ok i) ∧
      exec (.decode b) s = exec i (if s.cur.toNat = 64 then s else s.storeFb s.cur.toNat b)

/-- DECODE with the cursor at the capacity or past it (R100, R205): Reject, code E5, the byte not stored. -/
def Obligations.DecodeAtCapacityRejects : Prop :=
  ∀ (b : Byte) (s : State), 64 ≤ s.cur.toNat →
    exec (.decode b) s =
      .next { s with cur := 0, evq := s.evq ++ [.e5], ans := .verdict .reject } ∧
    exec .decodeOvf s =
      .next { s with cur := 0, evq := s.evq ++ [.e5], ans := .verdict .reject }

/-- One byte raises at most one error (R208), and DECODE writes `FB` at the cursor only, `CUR`, `WARN` and `EVQ`
(R11, R209): Continue advances the cursor, Reject sets it to 0 with one event, Complete leaves it. -/
def Obligations.DecodeWritesLittle : Prop :=
  ∀ (b : Byte) (s : State), ∃ t v, exec (.decode b) s = .next t ∧ t.ans = .verdict v ∧
    t = { s with fb := t.fb, cur := t.cur, warn := t.warn, evq := t.evq, ans := t.ans } ∧
    (∀ i, i ≠ s.cur.toNat → t.fbAt i = s.fbAt i) ∧
    ((v = .cont ∧ t.cur = s.cur + 1 ∧ t.warn = s.warn ∧ t.evq = s.evq) ∨
     (v = .complete ∧ t.cur = s.cur ∧ t.warn = s.warn ∧ t.evq = s.evq) ∨
     (v = .reject ∧ t.cur = 0 ∧ ∃ e, t.evq = s.evq ++ [e] ∧ (e = .e1 ∨ e = .e2 ∨ e = .e3 ∨ e = .e5) ∧
       t.warn = (s.warn || (e = .e2 || e = .e3))))

/-- DEC.M0, DEC.M1, DEC.A0 (R101, R102, R108, R201): the preamble bytes; a wrong one is rejected silently. -/
def Obligations.PreambleBytesDecide : Prop :=
  ∀ (b : Byte) (s : State),
    exec (.decM0 b) s = .next (if b = 0x42 then advanced s else rejectedSilently s) ∧
    exec (.decM1 b) s = .next (if b = 0x4D then advanced s else rejectedSilently s) ∧
    exec (.decA0 b) s = .next (if b = 0xFF then advanced s else rejectedSilently s)

/-- DEC.MB, DEC.AB and CONTINUE (R105, R109, R112): accepted unconditionally, the cursor advances by one. -/
def Obligations.BodyBytesAreAccepted : Prop :=
  ∀ s : State, exec .decMb s = .next (advanced s) ∧ exec .decAb s = .next (advanced s) ∧
    exec .cont s = .next (advanced s)

/-- DEC.M2 and DEC.M3 (R103, R104, R202): the length is tested at index 3 (D5, log 22) and must be 28; another value
warns (D13, log 16) and rejects. -/
def Obligations.LengthFieldIsTestedAtIndexThree : Prop :=
  ∀ s : State, exec .decM2 s = .next (advanced s) ∧
    exec .decM3 s =
      .next (if (s.fbAt 2).toNat * 256 + (s.fbAt 3).toNat = 28 then advanced s else rejectedWithWarning .e2 s)

/-- DEC.M31 (R106, R64, R203): the sum of bytes 0 to 29 against the big-endian field at 30. -/
def Obligations.MeasurementChecksumDecides : Prop :=
  ∀ s : State, exec .decM31 s =
    .next (if byteSum (frameBytes s 30) % 65536 = (s.fbAt 30).toNat * 256 + (s.fbAt 31).toNat
      then { s with ans := .verdict .complete } else rejectedWithWarning .e3 s)

/-- DEC.A8 (R110, R63, R203): 255 minus the sum of bytes 0 to 7 modulo 256 against byte 8. -/
def Obligations.AckChecksumDecides : Prop :=
  ∀ s : State, exec .decA8 s =
    .next (if 255 - byteSum (frameBytes s 8) % 256 = (s.fbAt 8).toNat
      then { s with ans := .verdict .complete } else rejectedWithWarning .e3 s)

/-- DEC.MX and DEC.AX (R107, R111): past the end of the shape, a silent reject (D6, log 22). -/
def Obligations.PastTheEndIsRejected : Prop :=
  ∀ s : State, exec .decMx s = .next (rejectedSilently s) ∧ exec .decAx s = .next (rejectedSilently s)

/-- REJECT (R113, R209): the cursor to 0, `WARN` for the two warning causes (D13), one event with the cause's code
(D14); `PEND`, `DS`, the marks, `INIT`, `FB` and everything else stay. -/
def Obligations.RejectTakesTheException : Prop :=
  ∀ s : State,
    exec (.reject .framing) s = .next (rejectedSilently s) ∧
    exec (.reject .length) s = .next (rejectedWithWarning .e2 s) ∧
    exec (.reject .checksum) s = .next (rejectedWithWarning .e3 s) ∧
    exec (.reject .overflow) s =
      .next { s with cur := 0, evq := s.evq ++ [.e5], ans := .verdict .reject }

/-- COMPLETE (R114): the verdict; `CUR` still holds the final index until ON_COMPLETE. -/
def Obligations.CompleteAnswersTheVerdict : Prop :=
  ∀ s : State, exec .complete s = .next { s with ans := .verdict .complete }

/-- CLASSIFY (R116) answers one verdict a byte and writes no state (log 12); in canonical states the verdicts are
the same whatever the state: nothing left in `FB` reaches them (R11, R117). -/
def Obligations.ClassifyDependsOnItsBytesOnly : Prop :=
  ∀ (k : Shape) (bytes : List Byte), ∃ vs : List Verdict, vs.length = bytes.length ∧
    ∀ s : State, Memory.wf s.fb = true → exec (.classify k bytes) s = .next { s with ans := .verdicts vs }

/-- The closed form of R116 for 32 bytes in the measurement shape: 31 Continue and a Complete exactly when the
preamble, the length and the 16-bit sum are right. -/
def Obligations.MeasurementFrameCompletesIff : Prop :=
  ∀ (f : List Byte) (s : State), f.length = 32 → Memory.wf s.fb = true →
    ∃ vs, exec (.classify .meas f) s = .next { s with ans := .verdicts vs } ∧
      (vs = List.replicate 31 .cont ++ [.complete] ↔
        f.getD 0 0 = 0x42 ∧ f.getD 1 0 = 0x4D ∧ f.getD 2 0 = 0x00 ∧ f.getD 3 0 = 0x1C ∧
          byteSum (f.take 30) % 65536 = (f.getD 30 0).toNat * 256 + (f.getD 31 0).toNat)

/-- The closed form of R116 for 9 bytes in the ack shape. -/
def Obligations.AckFrameCompletesIff : Prop :=
  ∀ (f : List Byte) (s : State), f.length = 9 → Memory.wf s.fb = true →
    ∃ vs, exec (.classify .ack f) s = .next { s with ans := .verdicts vs } ∧
      (vs = List.replicate 8 .cont ++ [.complete] ↔
        f.getD 0 0 = 0xFF ∧ 255 - byteSum (f.take 8) % 256 = (f.getD 8 0).toNat)

/-- The checksum invariant (R119): a valid measurement frame with one of bytes 4 to 29 changed gives ChecksumMismatch
at index 31, that is 31 Continue and a Reject; the same for one of bytes 1 to 8 of a valid ack-shape frame. -/
def Obligations.OneChangedByteFailsTheChecksum : Prop :=
  ∀ (k : Shape) (f : List Byte) (i : Nat) (v : Byte) (s : State), Memory.wf s.fb = true →
    exec (.classify k f) s =
      .next { s with ans := .verdicts (List.replicate (match k with | .meas => 31 | .ack => 8) .cont ++ [.complete]) } →
    (match k with | .meas => 4 ≤ i ∧ i ≤ 29 | .ack => 1 ≤ i ∧ i ≤ 8) → v ≠ f.getD i 0 →
    exec (.classify k (f.set i v)) s =
      .next { s with ans := .verdicts (List.replicate (match k with | .meas => 31 | .ack => 8) .cont ++ [.reject]) }

/-- Idempotence and resynchronisation (R118, R115): after bytes that end in a Reject or a Complete, what follows is
classified as if it stood alone. -/
def Obligations.DecoderForgetsAFinishedFrame : Prop :=
  ∀ (k : Shape) (a b : List Byte) (s : State) (va vb : List Verdict), Memory.wf s.fb = true →
    exec (.classify k a) s = .next { s with ans := .verdicts va } →
    exec (.classify k b) s = .next { s with ans := .verdicts vb } →
    va ≠ [] → va.getLast? ≠ some .cont →
    exec (.classify k (a ++ b)) s = .next { s with ans := .verdicts (va ++ vb) }

/-! ### The parser -/

/-- EXTRACT (R150): the three big-endian fields at 6, 2 and 4; no state is written. -/
def Obligations.ExtractReadsThreeFields : Prop :=
  ∀ s : State, ∃ pm1_0 pm2_5 pm10_0 : Half,
    exec .extract s = .next { s with ans := .readings pm1_0 pm2_5 pm10_0 } ∧
    pm1_0.toNat = (s.fbAt 6).toNat * 256 + (s.fbAt 7).toNat ∧
    pm2_5.toNat = (s.fbAt 2).toNat * 256 + (s.fbAt 3).toNat ∧
    pm10_0.toNat = (s.fbAt 4).toNat * 256 + (s.fbAt 5).toNat

/-- PUBLISH (R151): only with byte 1 = 0x86 and `PEND = 1`, each output only if attached, in the order of D15. -/
def Obligations.PublishHasItsGuard : Prop :=
  ∀ (pm1_0 pm2_5 pm10_0 : Half) (s : State),
    exec (.publish pm1_0 pm2_5 pm10_0) s =
      .next { s with
        pubq := if s.fbAt 1 = 0x86 ∧ s.pend = true then s.pubq ++ pairs s pm1_0 pm2_5 pm10_0 else s.pubq
        ans := .nothing }

/-- ON_COMPLETE (R153): the readings under the guard read before `PEND` is cleared, the event, `LMT`, `PEND`, `CUR`,
and in cycling mode DUTY.DONE. -/
def Obligations.OnCompleteInOrder : Prop :=
  ∀ s : State, ∃ pm1_0 pm2_5 pm10_0 : Half,
    exec .extract s = .next { s with ans := .readings pm1_0 pm2_5 pm10_0 } ∧
    exec .onComplete s =
      .next { s with
        pubq := if s.fbAt 1 = 0x86 ∧ s.pend = true then s.pubq ++ pairs s pm1_0 pm2_5 pm10_0 else s.pubq
        evq := s.evq ++ [.ok]
        lmt := s.now
        pend := false
        cur := 0
        txq := if 45000 < s.ui.toNat then s.txq ++ Command.bytes .standby else s.txq
        ds := if 45000 < s.ui.toNat then .idle else s.ds
        warn := if 45000 < s.ui.toNat then false else s.warn
        ans := .nothing }

/-! ### The duty-cycle machine -/

/-- MODE (R160): cycling exactly when the interval exceeds 45000 ms. -/
def Obligations.ModeIsTheInterval : Prop :=
  ∀ s : State, exec .mode s = .next { s with ans := .cycling (decide (45000 < s.ui.toNat)) }

/-- DUTY.IDLE (R162): stays while `now -_32 LMT < UI - 45000`, else POWER_ON, `FPT`, `Stabilising`; the tick ends on
both paths (D9, log 18). -/
def Obligations.IdlePowersOnAfterTheOffTime : Prop :=
  ∀ s : State, exec .dutyIdle s =
    .next (if (s.now - s.lmt).toNat < (s.ui - 45000).toNat then { s with ans := .tickEnds }
      else { s with
        txq := s.txq ++ [0xFF, 0x01, 0xA7, 0x00, 0, 0, 0, 0, 0x58]
        fpt := s.now
        ds := .stabilising
        ans := .tickEnds })

/-- DRAIN (R184): `RXQ` emptied and nothing else touched (D10, log 19); a read failure to come (R185, D11) ends it
after that many reads. -/
def Obligations.DrainEmptiesTheQueue : Prop :=
  ∀ s : State,
    (s.rxErr = none → exec .drain s = .next { s with rxq := [], ans := .nothing }) ∧
    (∀ n, s.rxErr = some n → n < s.rxq.length →
      exec .drain s = .next { s with rxq := s.rxq.drop n, rxErr := none, ans := .nothing }) ∧
    (∀ n, s.rxErr = some n → s.rxq.length ≤ n →
      exec .drain s = .next { s with rxq := [], rxErr := some (n - s.rxq.length), ans := .nothing })

/-- DUTY.STAB (R163): stays while `now -_32 FPT < 45000`, else DRAIN, TRIGGER with `PEND`, `Waiting`, in that order;
the tick ends on both paths (D9, log 18). -/
def Obligations.StabilisingTriggersAfterWarmUp : Prop :=
  ∀ s : State,
    ((s.now - s.fpt).toNat < 45000 → exec .dutyStab s = .next { s with ans := .tickEnds }) ∧
    (45000 ≤ (s.now - s.fpt).toNat → ∃ d, exec .drain s = .next d ∧
      exec .dutyStab s =
        .next { d with
          txq := s.txq ++ [0xFF, 0x01, 0x86, 0x00, 0, 0, 0, 0, 0x79]
          pend := true
          ds := .waiting
          ans := .tickEnds })

/-- DUTY.WAIT (R164), CONT.GATE (R166), RXEMPTY (R182): no state is written; the tick goes on, or ends while the gate
is closed, or ends with nothing offered. -/
def Obligations.GatesWriteNothing : Prop :=
  ∀ s : State,
    exec .dutyWait s = .next { s with ans := .tickGoesOn } ∧
    exec .contGate s =
      .next { s with ans := if (s.now - s.lmt).toNat < s.ui.toNat then .tickEnds else .tickGoesOn } ∧
    exec .rxempty s = .next { s with ans := if s.rxq.length = 0 then .tickEnds else .tickGoesOn }

/-- DUTY.DONE (R165): STANDBY, `Idle`, `WARN` cleared. -/
def Obligations.DoneReturnsToIdle : Prop :=
  ∀ s : State, exec .dutyDone s =
    .next { s with
      txq := s.txq ++ [0xFF, 0x01, 0xA7, 0x01, 0, 0, 0, 0, 0x57]
      ds := .idle
      warn := false
      ans := .nothing }

/-- R17: from a state of the invariant a step moves `DS` only along `Idle → Stabilising → Waiting → Idle`. -/
def Obligations.DutyStateMovesAlongItsCycle : Prop :=
  ∀ s t : State, s.Inv → step s = .next t →
    t.ds = s.ds ∨ (s.ds = .idle ∧ t.ds = .stabilising) ∨ (s.ds = .stabilising ∧ t.ds = .waiting) ∨
      (s.ds = .waiting ∧ t.ds = .idle)

/-- The timed part of R167 for any interval: in cycling mode a tick leaves `Idle` exactly when the time since `LMT`
has reached `UI - 45000`, and `Stabilising` exactly when the time since `FPT` has reached 45000. -/
def Obligations.CyclingTicksCrossTheirThresholds : Prop :=
  ∀ s : State, 45000 < s.ui.toNat →
    (s.ds = .idle → ∃ t, exec .tick s = .next t ∧
      t.ds = if (s.now - s.lmt).toNat < s.ui.toNat - 45000 then .idle else .stabilising) ∧
    (s.ds = .stabilising → ∃ t, exec .tick s = .next t ∧
      t.ds = if (s.now - s.fpt).toNat < 45000 then .stabilising else .waiting)

/-! ### The driver step -/

/-- TICK (R180): INIT, the row the tick's word selects, and, where that row does not end the tick, STALE, RXEMPTY
and RXLOOP, each on the state the one before left. -/
def Obligations.TickRunsItsOperationsInOrder : Prop :=
  ∀ s : State, ∃ (s1 s2 : State) (row : Instr),
    exec .init s = .next s1 ∧ decode [fmtTick, s1.tsel4] = .ok row ∧ exec row s1 = .next s2 ∧
    ((s2.ans = .tickEnds ∧ exec .tick s = .next { s2 with ans := .nothing }) ∨
     (s2.ans = .tickGoesOn ∧ ∃ s3 s4, exec .stale s2 = .next s3 ∧ exec .rxempty s3 = .next s4 ∧
       ((s4.ans = .tickEnds ∧ exec .tick s = .next { s4 with ans := .nothing }) ∨
        (s4.ans = .tickGoesOn ∧ exec .tick s = exec .rxloop s4))))

/-- STALE (R181, R204): more than 500 ms since the last non-empty read put the cursor to 0; the event only mid-frame
(D17, log 24); nothing else is written. -/
def Obligations.StaleDropsThePartialFrame : Prop :=
  ∀ s : State, exec .stale s =
    .next (if 500 < (s.now - s.lbt).toNat
      then { s with cur := 0, evq := if s.cur = 0 then s.evq else s.evq ++ [.e4], ans := .tickGoesOn }
      else { s with ans := .tickGoesOn })

/-- Silence (R245, R246). `LBT` is written only by ticks that take bytes: a tick that changes it stamps `now` and
leaves fewer bytes queued. And where a tick reads after more than 500 ms without a byte taken, what the partial frame was
does not matter: the tick is that of the state with the cursor at 0 and E4 logged. -/
def Obligations.SilenceForgetsThePartialFrame : Prop :=
  (∀ s : State, ∃ t, exec .tick s = .next t ∧
    (t.lbt ≠ s.lbt → t.lbt = s.now ∧ t.rxq.length < s.rxq.length)) ∧
  ∀ s : State, s.init = true →
    ((45000 < s.ui.toNat ∧ s.ds = .waiting) ∨ (s.ui.toNat ≤ 45000 ∧ s.ui.toNat ≤ (s.now - s.lmt).toNat)) →
    500 < (s.now - s.lbt).toNat → s.cur ≠ 0 →
    exec .tick s = exec .tick { s with cur := 0, evq := s.evq ++ [.e4] }

/-- RXLOOP (R183, R26, D21): from every state it writes `LBT` with `now` exactly where it takes a byte (bytes are offered
and the first read does not fail; on an empty queue, where no tick runs it, log 13), and leaves the configuration, `FPT`,
`INIT` and the inputs alone; with no read failure it takes every byte of `RXQ`. -/
def Obligations.RxLoopTakesEveryByte : Prop :=
  ∀ s : State, ∃ t, exec .rxloop s = .next t ∧
    t.lbt = (if s.rxq ≠ [] ∧ s.rxErr ≠ some 0 then s.now else s.lbt) ∧
    (s.rxErr = none → t.rxq = [] ∧ t.rxErr = none) ∧ t.ui = s.ui ∧ t.attPm1_0 = s.attPm1_0 ∧
    t.attPm2_5 = s.attPm2_5 ∧ t.attPm10_0 = s.attPm10_0 ∧ t.fpt = s.fpt ∧ t.init = s.init ∧ t.now = s.now ∧
    t.script = s.script

/-- RXLOOP is DECODE and, on Complete, ON_COMPLETE, byte by byte (R183): the loop over `b` and more bytes is one of
them on the state with `b` popped, and then the loop over the rest. -/
def Obligations.RxLoopIsDecodeByteByByte : Prop :=
  ∀ (s : State) (b : Byte) (rest : List Byte), s.rxq = b :: rest → s.rxErr = none →
    ∃ u, exec (.decode b) { s with lbt := s.now, rxq := rest } = .next u ∧
      (u.ans = .verdict .complete → ∃ v, exec .onComplete u = .next v ∧ exec .rxloop s = exec .rxloop v) ∧
      (u.ans ≠ .verdict .complete → exec .rxloop s = exec .rxloop u)

/-- How the bytes are grouped does not matter (R117): a loop over `a ++ b` is a loop over `a`, the arrival of `b`, and
a loop over `b` at the same time. -/
def Obligations.GroupingOfBytesIsIrrelevant : Prop :=
  ∀ (s : State) (a b : List Byte), s.rxErr = none →
    ∃ t, exec .rxloop { s with rxq := a } = .next t ∧
      exec .rxloop { s with rxq := a ++ b } = exec .rxloop { t with rxq := b }

/-- A read that fails after `n` reads (R185, D11, log 13): the loop is the loop over the first `n` bytes, and the
others stay offered; where the very first read fails nothing else changes, `LBT` among it (D21). -/
def Obligations.ReadFailureEndsTheLoop : Prop :=
  (∀ (s : State) (n : Nat), s.rxErr = some n → n < s.rxq.length →
    ∃ t, exec .rxloop { s with rxq := s.rxq.take n, rxErr := none } = .next t ∧
      exec .rxloop s = .next { t with rxq := s.rxq.drop n }) ∧
  ∀ s : State, s.rxErr = some 0 → s.rxq ≠ [] → exec .rxloop s = .next { s with rxErr := none, ans := .nothing }

/-- An ack-shape frame whose byte 1 is not 0x86, received where one is expected (R61, R151, R244): with the right
checksum it completes, publishes nothing and ends the cycle; with another it warns and is rejected. That the frame's
bytes join `RXQ` and the loop runs is the model's reading of the row (log 11). -/
def Obligations.AckFrameReceived : Prop :=
  ∀ (body : List Byte) (chk : Byte) (s : State), body.length = 7 → body.head? ≠ some 0x86 → ReadyFor true s →
    ∃ t, exec (.ack body chk) s = .next t ∧ HoldsFrame s (0xFF :: (body ++ [chk])) t ∧
      (if (255 + byteSum body + chk.toNat) % 256 = 255 then CompletedFrom s [] t else ChecksumFailedFrom s t)

/-- The reply to TRIGGER (R150, R151, R153): with the right checksum its three readings are published on the attached
outputs; with another it warns and is rejected (log 11). -/
def Obligations.ReplyFrameIsPublished : Prop :=
  ∀ (pm2_5 pm10_0 pm1_0 : Half) (chk : Byte) (s : State), ReadyFor true s →
    ∃ t, exec (.reply86 pm2_5 pm10_0 pm1_0 chk) s = .next t ∧
      (if (255 + 0x86 + pm2_5.toNat / 256 + pm2_5.toNat % 256 + pm10_0.toNat / 256 + pm10_0.toNat % 256 +
            pm1_0.toNat / 256 + pm1_0.toNat % 256 + chk.toNat) % 256 = 255
        then CompletedFrom s (pairs s pm1_0 pm2_5 pm10_0) t else ChecksumFailedFrom s t)

/-- A measurement-shape frame received where one is expected (R62, R106, R154): with the right sum it completes and
publishes nothing; with another it warns and is rejected (log 11). -/
def Obligations.MeasurementFrameReceived : Prop :=
  ∀ (data : List Byte) (chk : Half) (s : State), data.length = 26 → ReadyFor false s →
    ∃ t, exec (.meas data chk) s = .next t ∧
      (if 171 + byteSum data = chk.toNat then CompletedFrom s [] t else ChecksumFailedFrom s t)

/-- One half of R67: nine bytes of the ack shape, a reply's too, where a measurement frame is expected complete nothing,
so nothing is published or sent and no mark but `LBT` moves (a measurement frame where an ack is expected is not said
here; PreambleBytesDecide rejects its first byte). That the row's bytes join `RXQ` and the loop runs, so that `RXQ` ends
empty and `LBT` is the time, is the model's reading of the row (log 11). -/
def Obligations.AckFrameIsNoMeasurement : Prop :=
  ∀ (i : Instr) (s : State), i.wf = true → ReadyFor false s →
    ((∃ body chk, i = .ack body chk) ∨ ∃ pm2_5 pm10_0 pm1_0 chk, i = .reply86 pm2_5 pm10_0 pm1_0 chk) →
    ∃ t, exec i s = .next t ∧ t.pubq = s.pubq ∧ t.txq = s.txq ∧ t.lmt = s.lmt ∧ t.fpt = s.fpt ∧
      t.pend = false ∧ t.ds = s.ds ∧ t.lbt = s.now ∧ t.rxq = []

/-! ### Reset and whole runs -/

/-- RESET (R231, R230): all marks, flags and the cursor 0, `Idle`, the queues empty, the configuration latched; `FB`
keeps its bytes and the inputs theirs (log 9). -/
def Obligations.ResetGivesTheStartState : Prop :=
  ∀ (ui : Time) (a b c : Bool) (s : State), ∃ t, exec (.reset ui a b c) s = .next t ∧
    t = { s with
      cur := 0, ds := .idle, lmt := 0, fpt := 0, lbt := 0, init := false, pend := false, warn := false
      ui := ui, attPm1_0 := a, attPm2_5 := b, attPm10_0 := c
      rxq := [], txq := [], pubq := [], evq := [], ans := .nothing }

/-- The invariant and the history of commands hold after reset, with every configuration. -/
def Obligations.InvariantsHoldAfterReset : Prop :=
  ∀ (ui : Time) (a b c : Bool), (State.resetWith ui a b c).Inv ∧ (State.resetWith ui a b c).SentAsTold ∧
    State.reset.Inv

/-- Every step keeps the invariant: the canonical frame buffer, `CUR <= 31` (R13), `PEND = 1` exactly in `Waiting` of
cycling mode (R20), `DS = Idle` in continuous mode (R16). -/
def Obligations.EveryStepKeepsTheInvariant : Prop :=
  ∀ s t : State, s.Inv → step s = .next t → t.Inv

/-- R18: `INIT` is 0 after reset, INIT in the first tick sets it, and no step of a run clears it. -/
def Obligations.InitFlagIsOneShot : Prop :=
  (∀ (ui : Time) (a b c : Bool), (State.resetWith ui a b c).init = false) ∧
  (∀ s : State, (∃ t, exec .init s = .next t ∧ t.init = true) ∧ ∃ t, exec .tick s = .next t ∧ t.init = true) ∧
  ∀ s t : State, s.onlyMoves = true → step s = .next t → s.init = true → t.init = true

/-- The history of commands is kept by every step (R137): in continuous mode SET_MODE_ACTIVE once and nothing more;
in cycling mode SET_MODE_QA and then POWER_ON, TRIGGER, STANDBY round the cycle, in step with `DS` (rests on D7, D9). -/
def Obligations.EveryStepSendsAsTold : Prop :=
  ∀ s t : State, s.Inv → s.SentAsTold → step s = .next t → t.SentAsTold

/-- Continuous mode publishes nothing and `WARN` sticks there (R154, R248, R211; D19, log 21). -/
def Obligations.ContinuousModePublishesNothing : Prop :=
  ∀ s t : State, s.Inv → s.ui.toNat ≤ 45000 → step s = .next t →
    t.pubq = s.pubq ∧ (s.warn = true → t.warn = true) ∧ t.ds = .idle ∧ t.pend = false ∧ t.ui = s.ui

/-- Publication in cycling mode (R154): a step that publishes starts in `Waiting` and ends in `Idle`, and adds at most
one value for each output, so at most one reading a cycle. -/
def Obligations.OnePublicationPerCycle : Prop :=
  ∀ s t : State, s.Inv → step s = .next t →
    ∃ out : List (Channel × Half), t.pubq = s.pubq ++ out ∧
      (out ≠ [] → s.ds = .waiting ∧ t.ds = .idle ∧ out.length ≤ 3 ∧ (out.map Prod.fst).Nodup)

/-- The hang in `Waiting` (R240): ticks alone, however many and whenever, send nothing, publish nothing and never
leave it. -/
def Obligations.WaitingHasNoTimeout : Prop :=
  ∀ (n : Nat) (s : State), s.init = true → 45000 < s.ui.toNat → s.ds = .waiting → s.rxq = [] →
    s.script.all Stimulus.isTick = true →
    ∃ t, Sys2Proof.core.run n s = .next t ∧ t.ds = .waiting ∧ t.pend = s.pend ∧ t.txq = s.txq ∧
      t.pubq = s.pubq ∧ t.warn = s.warn ∧ t.lmt = s.lmt ∧ t.rxq = []

/-- Stale bytes of `FB` are unobservable (R11): two states that differ only in bytes the frame in progress has not
written go, by a step, to two states that differ only so. -/
def Obligations.StaleBytesAreUnobservable : Prop :=
  ∀ s t s' : State, s.Inv → Memory.wf t.fb = true → s.SameButStaleBytes t → step s = .next s' →
    ∃ t', step t = .next t' ∧ s'.SameButStaleBytes t'
end

