-- ==== Sys2Proof/Laws/State.lean ====
section
/-! SUPPORT. One lemma per field per named update of State (Ops.lean), each true by `rfl`. -/

namespace Sys2Proof.Machine

variable (s : State)

/-! ### storeFb -/

@[simp] theorem State.storeFb_fb (a : Nat) (v : Byte) : (s.storeFb a v).fb = Memory.write s.fb a v := rfl
@[simp] theorem State.storeFb_cur (a : Nat) (v : Byte) : (s.storeFb a v).cur = s.cur := rfl
@[simp] theorem State.storeFb_ds (a : Nat) (v : Byte) : (s.storeFb a v).ds = s.ds := rfl
@[simp] theorem State.storeFb_lmt (a : Nat) (v : Byte) : (s.storeFb a v).lmt = s.lmt := rfl
@[simp] theorem State.storeFb_fpt (a : Nat) (v : Byte) : (s.storeFb a v).fpt = s.fpt := rfl
@[simp] theorem State.storeFb_lbt (a : Nat) (v : Byte) : (s.storeFb a v).lbt = s.lbt := rfl
@[simp] theorem State.storeFb_init (a : Nat) (v : Byte) : (s.storeFb a v).init = s.init := rfl
@[simp] theorem State.storeFb_pend (a : Nat) (v : Byte) : (s.storeFb a v).pend = s.pend := rfl
@[simp] theorem State.storeFb_warn (a : Nat) (v : Byte) : (s.storeFb a v).warn = s.warn := rfl
@[simp] theorem State.storeFb_ui (a : Nat) (v : Byte) : (s.storeFb a v).ui = s.ui := rfl
@[simp] theorem State.storeFb_attPm1_0 (a : Nat) (v : Byte) : (s.storeFb a v).attPm1_0 = s.attPm1_0 := rfl
@[simp] theorem State.storeFb_attPm2_5 (a : Nat) (v : Byte) : (s.storeFb a v).attPm2_5 = s.attPm2_5 := rfl
@[simp] theorem State.storeFb_attPm10_0 (a : Nat) (v : Byte) : (s.storeFb a v).attPm10_0 = s.attPm10_0 := rfl
@[simp] theorem State.storeFb_rxq (a : Nat) (v : Byte) : (s.storeFb a v).rxq = s.rxq := rfl
@[simp] theorem State.storeFb_txq (a : Nat) (v : Byte) : (s.storeFb a v).txq = s.txq := rfl
@[simp] theorem State.storeFb_pubq (a : Nat) (v : Byte) : (s.storeFb a v).pubq = s.pubq := rfl
@[simp] theorem State.storeFb_evq (a : Nat) (v : Byte) : (s.storeFb a v).evq = s.evq := rfl
@[simp] theorem State.storeFb_now (a : Nat) (v : Byte) : (s.storeFb a v).now = s.now := rfl
@[simp] theorem State.storeFb_rxErr (a : Nat) (v : Byte) : (s.storeFb a v).rxErr = s.rxErr := rfl
@[simp] theorem State.storeFb_script (a : Nat) (v : Byte) : (s.storeFb a v).script = s.script := rfl
@[simp] theorem State.storeFb_ans (a : Nat) (v : Byte) : (s.storeFb a v).ans = s.ans := rfl

/-! ### setCur -/

@[simp] theorem State.setCur_fb (c : BitVec 7) : (s.setCur c).fb = s.fb := rfl
@[simp] theorem State.setCur_cur (c : BitVec 7) : (s.setCur c).cur = c := rfl
@[simp] theorem State.setCur_ds (c : BitVec 7) : (s.setCur c).ds = s.ds := rfl
@[simp] theorem State.setCur_lmt (c : BitVec 7) : (s.setCur c).lmt = s.lmt := rfl
@[simp] theorem State.setCur_fpt (c : BitVec 7) : (s.setCur c).fpt = s.fpt := rfl
@[simp] theorem State.setCur_lbt (c : BitVec 7) : (s.setCur c).lbt = s.lbt := rfl
@[simp] theorem State.setCur_init (c : BitVec 7) : (s.setCur c).init = s.init := rfl
@[simp] theorem State.setCur_pend (c : BitVec 7) : (s.setCur c).pend = s.pend := rfl
@[simp] theorem State.setCur_warn (c : BitVec 7) : (s.setCur c).warn = s.warn := rfl
@[simp] theorem State.setCur_ui (c : BitVec 7) : (s.setCur c).ui = s.ui := rfl
@[simp] theorem State.setCur_attPm1_0 (c : BitVec 7) : (s.setCur c).attPm1_0 = s.attPm1_0 := rfl
@[simp] theorem State.setCur_attPm2_5 (c : BitVec 7) : (s.setCur c).attPm2_5 = s.attPm2_5 := rfl
@[simp] theorem State.setCur_attPm10_0 (c : BitVec 7) : (s.setCur c).attPm10_0 = s.attPm10_0 := rfl
@[simp] theorem State.setCur_rxq (c : BitVec 7) : (s.setCur c).rxq = s.rxq := rfl
@[simp] theorem State.setCur_txq (c : BitVec 7) : (s.setCur c).txq = s.txq := rfl
@[simp] theorem State.setCur_pubq (c : BitVec 7) : (s.setCur c).pubq = s.pubq := rfl
@[simp] theorem State.setCur_evq (c : BitVec 7) : (s.setCur c).evq = s.evq := rfl
@[simp] theorem State.setCur_now (c : BitVec 7) : (s.setCur c).now = s.now := rfl
@[simp] theorem State.setCur_rxErr (c : BitVec 7) : (s.setCur c).rxErr = s.rxErr := rfl
@[simp] theorem State.setCur_script (c : BitVec 7) : (s.setCur c).script = s.script := rfl
@[simp] theorem State.setCur_ans (c : BitVec 7) : (s.setCur c).ans = s.ans := rfl

/-! ### setPend -/

@[simp] theorem State.setPend_fb (p : Bool) : (s.setPend p).fb = s.fb := rfl
@[simp] theorem State.setPend_cur (p : Bool) : (s.setPend p).cur = s.cur := rfl
@[simp] theorem State.setPend_ds (p : Bool) : (s.setPend p).ds = s.ds := rfl
@[simp] theorem State.setPend_lmt (p : Bool) : (s.setPend p).lmt = s.lmt := rfl
@[simp] theorem State.setPend_fpt (p : Bool) : (s.setPend p).fpt = s.fpt := rfl
@[simp] theorem State.setPend_lbt (p : Bool) : (s.setPend p).lbt = s.lbt := rfl
@[simp] theorem State.setPend_init (p : Bool) : (s.setPend p).init = s.init := rfl
@[simp] theorem State.setPend_pend (p : Bool) : (s.setPend p).pend = p := rfl
@[simp] theorem State.setPend_warn (p : Bool) : (s.setPend p).warn = s.warn := rfl
@[simp] theorem State.setPend_ui (p : Bool) : (s.setPend p).ui = s.ui := rfl
@[simp] theorem State.setPend_attPm1_0 (p : Bool) : (s.setPend p).attPm1_0 = s.attPm1_0 := rfl
@[simp] theorem State.setPend_attPm2_5 (p : Bool) : (s.setPend p).attPm2_5 = s.attPm2_5 := rfl
@[simp] theorem State.setPend_attPm10_0 (p : Bool) : (s.setPend p).attPm10_0 = s.attPm10_0 := rfl
@[simp] theorem State.setPend_rxq (p : Bool) : (s.setPend p).rxq = s.rxq := rfl
@[simp] theorem State.setPend_txq (p : Bool) : (s.setPend p).txq = s.txq := rfl
@[simp] theorem State.setPend_pubq (p : Bool) : (s.setPend p).pubq = s.pubq := rfl
@[simp] theorem State.setPend_evq (p : Bool) : (s.setPend p).evq = s.evq := rfl
@[simp] theorem State.setPend_now (p : Bool) : (s.setPend p).now = s.now := rfl
@[simp] theorem State.setPend_rxErr (p : Bool) : (s.setPend p).rxErr = s.rxErr := rfl
@[simp] theorem State.setPend_script (p : Bool) : (s.setPend p).script = s.script := rfl
@[simp] theorem State.setPend_ans (p : Bool) : (s.setPend p).ans = s.ans := rfl

/-! ### setWarn -/

@[simp] theorem State.setWarn_fb (w : Bool) : (s.setWarn w).fb = s.fb := rfl
@[simp] theorem State.setWarn_cur (w : Bool) : (s.setWarn w).cur = s.cur := rfl
@[simp] theorem State.setWarn_ds (w : Bool) : (s.setWarn w).ds = s.ds := rfl
@[simp] theorem State.setWarn_lmt (w : Bool) : (s.setWarn w).lmt = s.lmt := rfl
@[simp] theorem State.setWarn_fpt (w : Bool) : (s.setWarn w).fpt = s.fpt := rfl
@[simp] theorem State.setWarn_lbt (w : Bool) : (s.setWarn w).lbt = s.lbt := rfl
@[simp] theorem State.setWarn_init (w : Bool) : (s.setWarn w).init = s.init := rfl
@[simp] theorem State.setWarn_pend (w : Bool) : (s.setWarn w).pend = s.pend := rfl
@[simp] theorem State.setWarn_warn (w : Bool) : (s.setWarn w).warn = w := rfl
@[simp] theorem State.setWarn_ui (w : Bool) : (s.setWarn w).ui = s.ui := rfl
@[simp] theorem State.setWarn_attPm1_0 (w : Bool) : (s.setWarn w).attPm1_0 = s.attPm1_0 := rfl
@[simp] theorem State.setWarn_attPm2_5 (w : Bool) : (s.setWarn w).attPm2_5 = s.attPm2_5 := rfl
@[simp] theorem State.setWarn_attPm10_0 (w : Bool) : (s.setWarn w).attPm10_0 = s.attPm10_0 := rfl
@[simp] theorem State.setWarn_rxq (w : Bool) : (s.setWarn w).rxq = s.rxq := rfl
@[simp] theorem State.setWarn_txq (w : Bool) : (s.setWarn w).txq = s.txq := rfl
@[simp] theorem State.setWarn_pubq (w : Bool) : (s.setWarn w).pubq = s.pubq := rfl
@[simp] theorem State.setWarn_evq (w : Bool) : (s.setWarn w).evq = s.evq := rfl
@[simp] theorem State.setWarn_now (w : Bool) : (s.setWarn w).now = s.now := rfl
@[simp] theorem State.setWarn_rxErr (w : Bool) : (s.setWarn w).rxErr = s.rxErr := rfl
@[simp] theorem State.setWarn_script (w : Bool) : (s.setWarn w).script = s.script := rfl
@[simp] theorem State.setWarn_ans (w : Bool) : (s.setWarn w).ans = s.ans := rfl

/-! ### setDs -/

@[simp] theorem State.setDs_fb (d : DutyState) : (s.setDs d).fb = s.fb := rfl
@[simp] theorem State.setDs_cur (d : DutyState) : (s.setDs d).cur = s.cur := rfl
@[simp] theorem State.setDs_ds (d : DutyState) : (s.setDs d).ds = d := rfl
@[simp] theorem State.setDs_lmt (d : DutyState) : (s.setDs d).lmt = s.lmt := rfl
@[simp] theorem State.setDs_fpt (d : DutyState) : (s.setDs d).fpt = s.fpt := rfl
@[simp] theorem State.setDs_lbt (d : DutyState) : (s.setDs d).lbt = s.lbt := rfl
@[simp] theorem State.setDs_init (d : DutyState) : (s.setDs d).init = s.init := rfl
@[simp] theorem State.setDs_pend (d : DutyState) : (s.setDs d).pend = s.pend := rfl
@[simp] theorem State.setDs_warn (d : DutyState) : (s.setDs d).warn = s.warn := rfl
@[simp] theorem State.setDs_ui (d : DutyState) : (s.setDs d).ui = s.ui := rfl
@[simp] theorem State.setDs_attPm1_0 (d : DutyState) : (s.setDs d).attPm1_0 = s.attPm1_0 := rfl
@[simp] theorem State.setDs_attPm2_5 (d : DutyState) : (s.setDs d).attPm2_5 = s.attPm2_5 := rfl
@[simp] theorem State.setDs_attPm10_0 (d : DutyState) : (s.setDs d).attPm10_0 = s.attPm10_0 := rfl
@[simp] theorem State.setDs_rxq (d : DutyState) : (s.setDs d).rxq = s.rxq := rfl
@[simp] theorem State.setDs_txq (d : DutyState) : (s.setDs d).txq = s.txq := rfl
@[simp] theorem State.setDs_pubq (d : DutyState) : (s.setDs d).pubq = s.pubq := rfl
@[simp] theorem State.setDs_evq (d : DutyState) : (s.setDs d).evq = s.evq := rfl
@[simp] theorem State.setDs_now (d : DutyState) : (s.setDs d).now = s.now := rfl
@[simp] theorem State.setDs_rxErr (d : DutyState) : (s.setDs d).rxErr = s.rxErr := rfl
@[simp] theorem State.setDs_script (d : DutyState) : (s.setDs d).script = s.script := rfl
@[simp] theorem State.setDs_ans (d : DutyState) : (s.setDs d).ans = s.ans := rfl

/-! ### txPush -/

@[simp] theorem State.txPush_fb (bytes : List Byte) : (s.txPush bytes).fb = s.fb := rfl
@[simp] theorem State.txPush_cur (bytes : List Byte) : (s.txPush bytes).cur = s.cur := rfl
@[simp] theorem State.txPush_ds (bytes : List Byte) : (s.txPush bytes).ds = s.ds := rfl
@[simp] theorem State.txPush_lmt (bytes : List Byte) : (s.txPush bytes).lmt = s.lmt := rfl
@[simp] theorem State.txPush_fpt (bytes : List Byte) : (s.txPush bytes).fpt = s.fpt := rfl
@[simp] theorem State.txPush_lbt (bytes : List Byte) : (s.txPush bytes).lbt = s.lbt := rfl
@[simp] theorem State.txPush_init (bytes : List Byte) : (s.txPush bytes).init = s.init := rfl
@[simp] theorem State.txPush_pend (bytes : List Byte) : (s.txPush bytes).pend = s.pend := rfl
@[simp] theorem State.txPush_warn (bytes : List Byte) : (s.txPush bytes).warn = s.warn := rfl
@[simp] theorem State.txPush_ui (bytes : List Byte) : (s.txPush bytes).ui = s.ui := rfl
@[simp] theorem State.txPush_attPm1_0 (bytes : List Byte) : (s.txPush bytes).attPm1_0 = s.attPm1_0 := rfl
@[simp] theorem State.txPush_attPm2_5 (bytes : List Byte) : (s.txPush bytes).attPm2_5 = s.attPm2_5 := rfl
@[simp] theorem State.txPush_attPm10_0 (bytes : List Byte) : (s.txPush bytes).attPm10_0 = s.attPm10_0 := rfl
@[simp] theorem State.txPush_rxq (bytes : List Byte) : (s.txPush bytes).rxq = s.rxq := rfl
@[simp] theorem State.txPush_txq (bytes : List Byte) : (s.txPush bytes).txq = s.txq ++ bytes := rfl
@[simp] theorem State.txPush_pubq (bytes : List Byte) : (s.txPush bytes).pubq = s.pubq := rfl
@[simp] theorem State.txPush_evq (bytes : List Byte) : (s.txPush bytes).evq = s.evq := rfl
@[simp] theorem State.txPush_now (bytes : List Byte) : (s.txPush bytes).now = s.now := rfl
@[simp] theorem State.txPush_rxErr (bytes : List Byte) : (s.txPush bytes).rxErr = s.rxErr := rfl
@[simp] theorem State.txPush_script (bytes : List Byte) : (s.txPush bytes).script = s.script := rfl
@[simp] theorem State.txPush_ans (bytes : List Byte) : (s.txPush bytes).ans = s.ans := rfl

/-! ### publish -/

@[simp] theorem State.publish_fb (ch : Channel) (v : Half) : (s.publish ch v).fb = s.fb := rfl
@[simp] theorem State.publish_cur (ch : Channel) (v : Half) : (s.publish ch v).cur = s.cur := rfl
@[simp] theorem State.publish_ds (ch : Channel) (v : Half) : (s.publish ch v).ds = s.ds := rfl
@[simp] theorem State.publish_lmt (ch : Channel) (v : Half) : (s.publish ch v).lmt = s.lmt := rfl
@[simp] theorem State.publish_fpt (ch : Channel) (v : Half) : (s.publish ch v).fpt = s.fpt := rfl
@[simp] theorem State.publish_lbt (ch : Channel) (v : Half) : (s.publish ch v).lbt = s.lbt := rfl
@[simp] theorem State.publish_init (ch : Channel) (v : Half) : (s.publish ch v).init = s.init := rfl
@[simp] theorem State.publish_pend (ch : Channel) (v : Half) : (s.publish ch v).pend = s.pend := rfl
@[simp] theorem State.publish_warn (ch : Channel) (v : Half) : (s.publish ch v).warn = s.warn := rfl
@[simp] theorem State.publish_ui (ch : Channel) (v : Half) : (s.publish ch v).ui = s.ui := rfl
@[simp] theorem State.publish_attPm1_0 (ch : Channel) (v : Half) : (s.publish ch v).attPm1_0 = s.attPm1_0 := rfl
@[simp] theorem State.publish_attPm2_5 (ch : Channel) (v : Half) : (s.publish ch v).attPm2_5 = s.attPm2_5 := rfl
@[simp] theorem State.publish_attPm10_0 (ch : Channel) (v : Half) : (s.publish ch v).attPm10_0 = s.attPm10_0 := rfl
@[simp] theorem State.publish_rxq (ch : Channel) (v : Half) : (s.publish ch v).rxq = s.rxq := rfl
@[simp] theorem State.publish_txq (ch : Channel) (v : Half) : (s.publish ch v).txq = s.txq := rfl
@[simp] theorem State.publish_pubq (ch : Channel) (v : Half) : (s.publish ch v).pubq = s.pubq ++ [(ch, v)] := rfl
@[simp] theorem State.publish_evq (ch : Channel) (v : Half) : (s.publish ch v).evq = s.evq := rfl
@[simp] theorem State.publish_now (ch : Channel) (v : Half) : (s.publish ch v).now = s.now := rfl
@[simp] theorem State.publish_rxErr (ch : Channel) (v : Half) : (s.publish ch v).rxErr = s.rxErr := rfl
@[simp] theorem State.publish_script (ch : Channel) (v : Half) : (s.publish ch v).script = s.script := rfl
@[simp] theorem State.publish_ans (ch : Channel) (v : Half) : (s.publish ch v).ans = s.ans := rfl

/-! ### logEvent -/

@[simp] theorem State.logEvent_fb (e : Event) : (s.logEvent e).fb = s.fb := rfl
@[simp] theorem State.logEvent_cur (e : Event) : (s.logEvent e).cur = s.cur := rfl
@[simp] theorem State.logEvent_ds (e : Event) : (s.logEvent e).ds = s.ds := rfl
@[simp] theorem State.logEvent_lmt (e : Event) : (s.logEvent e).lmt = s.lmt := rfl
@[simp] theorem State.logEvent_fpt (e : Event) : (s.logEvent e).fpt = s.fpt := rfl
@[simp] theorem State.logEvent_lbt (e : Event) : (s.logEvent e).lbt = s.lbt := rfl
@[simp] theorem State.logEvent_init (e : Event) : (s.logEvent e).init = s.init := rfl
@[simp] theorem State.logEvent_pend (e : Event) : (s.logEvent e).pend = s.pend := rfl
@[simp] theorem State.logEvent_warn (e : Event) : (s.logEvent e).warn = s.warn := rfl
@[simp] theorem State.logEvent_ui (e : Event) : (s.logEvent e).ui = s.ui := rfl
@[simp] theorem State.logEvent_attPm1_0 (e : Event) : (s.logEvent e).attPm1_0 = s.attPm1_0 := rfl
@[simp] theorem State.logEvent_attPm2_5 (e : Event) : (s.logEvent e).attPm2_5 = s.attPm2_5 := rfl
@[simp] theorem State.logEvent_attPm10_0 (e : Event) : (s.logEvent e).attPm10_0 = s.attPm10_0 := rfl
@[simp] theorem State.logEvent_rxq (e : Event) : (s.logEvent e).rxq = s.rxq := rfl
@[simp] theorem State.logEvent_txq (e : Event) : (s.logEvent e).txq = s.txq := rfl
@[simp] theorem State.logEvent_pubq (e : Event) : (s.logEvent e).pubq = s.pubq := rfl
@[simp] theorem State.logEvent_evq (e : Event) : (s.logEvent e).evq = s.evq ++ [e] := rfl
@[simp] theorem State.logEvent_now (e : Event) : (s.logEvent e).now = s.now := rfl
@[simp] theorem State.logEvent_rxErr (e : Event) : (s.logEvent e).rxErr = s.rxErr := rfl
@[simp] theorem State.logEvent_script (e : Event) : (s.logEvent e).script = s.script := rfl
@[simp] theorem State.logEvent_ans (e : Event) : (s.logEvent e).ans = s.ans := rfl

/-! ### answer -/

@[simp] theorem State.answer_fb (x : Answer) : (s.answer x).fb = s.fb := rfl
@[simp] theorem State.answer_cur (x : Answer) : (s.answer x).cur = s.cur := rfl
@[simp] theorem State.answer_ds (x : Answer) : (s.answer x).ds = s.ds := rfl
@[simp] theorem State.answer_lmt (x : Answer) : (s.answer x).lmt = s.lmt := rfl
@[simp] theorem State.answer_fpt (x : Answer) : (s.answer x).fpt = s.fpt := rfl
@[simp] theorem State.answer_lbt (x : Answer) : (s.answer x).lbt = s.lbt := rfl
@[simp] theorem State.answer_init (x : Answer) : (s.answer x).init = s.init := rfl
@[simp] theorem State.answer_pend (x : Answer) : (s.answer x).pend = s.pend := rfl
@[simp] theorem State.answer_warn (x : Answer) : (s.answer x).warn = s.warn := rfl
@[simp] theorem State.answer_ui (x : Answer) : (s.answer x).ui = s.ui := rfl
@[simp] theorem State.answer_attPm1_0 (x : Answer) : (s.answer x).attPm1_0 = s.attPm1_0 := rfl
@[simp] theorem State.answer_attPm2_5 (x : Answer) : (s.answer x).attPm2_5 = s.attPm2_5 := rfl
@[simp] theorem State.answer_attPm10_0 (x : Answer) : (s.answer x).attPm10_0 = s.attPm10_0 := rfl
@[simp] theorem State.answer_rxq (x : Answer) : (s.answer x).rxq = s.rxq := rfl
@[simp] theorem State.answer_txq (x : Answer) : (s.answer x).txq = s.txq := rfl
@[simp] theorem State.answer_pubq (x : Answer) : (s.answer x).pubq = s.pubq := rfl
@[simp] theorem State.answer_evq (x : Answer) : (s.answer x).evq = s.evq := rfl
@[simp] theorem State.answer_now (x : Answer) : (s.answer x).now = s.now := rfl
@[simp] theorem State.answer_rxErr (x : Answer) : (s.answer x).rxErr = s.rxErr := rfl
@[simp] theorem State.answer_script (x : Answer) : (s.answer x).script = s.script := rfl
@[simp] theorem State.answer_ans (x : Answer) : (s.answer x).ans = x := rfl

/-! ### Derived reads -/

@[simp] theorem State.storeFb_cyc (a : Nat) (v : Byte) : (s.storeFb a v).cyc = s.cyc := rfl
@[simp] theorem State.setCur_cyc (c : BitVec 7) : (s.setCur c).cyc = s.cyc := rfl
@[simp] theorem State.setCur_fbAt (c : BitVec 7) (i : Nat) : (s.setCur c).fbAt i = s.fbAt i := rfl
@[simp] theorem State.setCur_be16 (c : BitVec 7) (i : Nat) : (s.setCur c).be16 i = s.be16 i := rfl
@[simp] theorem State.setPend_cyc (p : Bool) : (s.setPend p).cyc = s.cyc := rfl
@[simp] theorem State.setPend_fbAt (p : Bool) (i : Nat) : (s.setPend p).fbAt i = s.fbAt i := rfl
@[simp] theorem State.setPend_be16 (p : Bool) (i : Nat) : (s.setPend p).be16 i = s.be16 i := rfl
@[simp] theorem State.setWarn_cyc (w : Bool) : (s.setWarn w).cyc = s.cyc := rfl
@[simp] theorem State.setWarn_fbAt (w : Bool) (i : Nat) : (s.setWarn w).fbAt i = s.fbAt i := rfl
@[simp] theorem State.setWarn_be16 (w : Bool) (i : Nat) : (s.setWarn w).be16 i = s.be16 i := rfl
@[simp] theorem State.setDs_cyc (d : DutyState) : (s.setDs d).cyc = s.cyc := rfl
@[simp] theorem State.setDs_fbAt (d : DutyState) (i : Nat) : (s.setDs d).fbAt i = s.fbAt i := rfl
@[simp] theorem State.setDs_be16 (d : DutyState) (i : Nat) : (s.setDs d).be16 i = s.be16 i := rfl
@[simp] theorem State.txPush_cyc (bytes : List Byte) : (s.txPush bytes).cyc = s.cyc := rfl
@[simp] theorem State.txPush_fbAt (bytes : List Byte) (i : Nat) : (s.txPush bytes).fbAt i = s.fbAt i := rfl
@[simp] theorem State.txPush_be16 (bytes : List Byte) (i : Nat) : (s.txPush bytes).be16 i = s.be16 i := rfl
@[simp] theorem State.publish_cyc (ch : Channel) (v : Half) : (s.publish ch v).cyc = s.cyc := rfl
@[simp] theorem State.publish_fbAt (ch : Channel) (v : Half) (i : Nat) : (s.publish ch v).fbAt i = s.fbAt i := rfl
@[simp] theorem State.publish_be16 (ch : Channel) (v : Half) (i : Nat) : (s.publish ch v).be16 i = s.be16 i := rfl
@[simp] theorem State.logEvent_cyc (e : Event) : (s.logEvent e).cyc = s.cyc := rfl
@[simp] theorem State.logEvent_fbAt (e : Event) (i : Nat) : (s.logEvent e).fbAt i = s.fbAt i := rfl
@[simp] theorem State.logEvent_be16 (e : Event) (i : Nat) : (s.logEvent e).be16 i = s.be16 i := rfl
@[simp] theorem State.answer_cyc (x : Answer) : (s.answer x).cyc = s.cyc := rfl
@[simp] theorem State.answer_fbAt (x : Answer) (i : Nat) : (s.answer x).fbAt i = s.fbAt i := rfl
@[simp] theorem State.answer_be16 (x : Answer) (i : Nat) : (s.answer x).be16 i = s.be16 i := rfl

end Sys2Proof.Machine
end

