-- ==== Sys2Proof/Laws/Operands.lean ====
section
/-! SUPPORT. The byte arithmetic as arithmetic of numbers. -/

namespace Sys2Proof.Machine

@[simp] theorem byteSum_nil : byteSum [] = 0 := rfl
@[simp] theorem byteSum_cons (b : Byte) (l : List Byte) : byteSum (b :: l) = b.toNat + byteSum l := by
  simp [byteSum]
@[simp] theorem byteSum_append (l m : List Byte) : byteSum (l ++ m) = byteSum l + byteSum m := by
  simp [byteSum]

theorem byteSum_le (l : List Byte) : byteSum l ≤ 255 * l.length := by
  induction l with
  | nil => simp
  | cons b r ih => have := b.isLt; simp only [byteSum_cons, List.length_cons]; omega

theorem joinBytes_toNat (hi lo : Byte) : (joinBytes hi lo).toNat = hi.toNat * 256 + lo.toNat := by
  have hhi := hi.isLt
  have hlo := lo.isLt
  simp only [joinBytes, BitVec.toNat_or, BitVec.toNat_shiftLeft, BitVec.truncate_eq_setWidth, BitVec.toNat_setWidth]
  rw [Nat.mod_eq_of_lt (by omega : hi.toNat < 2 ^ 16), Nat.mod_eq_of_lt (by omega : lo.toNat < 2 ^ 16),
    Nat.shiftLeft_eq, Nat.mod_eq_of_lt (by omega : hi.toNat * 2 ^ 8 < 2 ^ 16), ← Nat.shiftLeft_eq,
    ← Nat.shiftLeft_add_eq_or_of_lt (by omega), Nat.shiftLeft_eq]

theorem highByte_toNat (v : Half) : (highByte v).toNat = v.toNat / 256 := by
  have := v.isLt
  simp only [highByte, BitVec.toNat_ofNat, Nat.shiftRight_eq_div_pow]
  omega

theorem lowByte_toNat (v : Half) : (lowByte v).toNat = v.toNat % 256 := by
  simp [lowByte]

/-- A 16-bit field is its two bytes. -/
@[simp] theorem joinBytes_high_low (v : Half) : joinBytes (highByte v) (lowByte v) = v := by
  apply BitVec.eq_of_toNat_eq
  rw [joinBytes_toNat, highByte_toNat, lowByte_toNat]
  omega

@[simp] theorem highByte_joinBytes (hi lo : Byte) : highByte (joinBytes hi lo) = hi := by
  apply BitVec.eq_of_toNat_eq
  have := lo.isLt
  rw [highByte_toNat, joinBytes_toNat]
  omega

@[simp] theorem lowByte_joinBytes (hi lo : Byte) : lowByte (joinBytes hi lo) = lo := by
  apply BitVec.eq_of_toNat_eq
  have := lo.isLt
  rw [lowByte_toNat, joinBytes_toNat]
  omega

theorem sum8_toNat (l : List Byte) : (sum8 l).toNat = byteSum l % 256 := by
  induction l with
  | nil => rfl
  | cons b r ih =>
    simp only [sum8, BitVec.toNat_add, ih, byteSum_cons]
    omega

theorem sum16_toNat (l : List Byte) : (sum16 l).toNat = byteSum l % 65536 := by
  induction l with
  | nil => rfl
  | cons b r ih =>
    have := b.isLt
    simp only [sum16, BitVec.toNat_add, ih, byteSum_cons, BitVec.truncate_eq_setWidth, BitVec.toNat_setWidth]
    rw [Nat.mod_eq_of_lt (by omega : b.toNat < 2 ^ 16)]
    omega

/-- R63 on numbers: the subtraction never borrows. -/
theorem chk8_toNat (l : List Byte) : (chk8 l).toNat = 255 - byteSum l % 256 := by
  have h := sum8_toNat l
  simp only [chk8, BitVec.toNat_sub, h]
  have : (0xFF : Byte).toNat = 255 := rfl
  rw [this]
  omega

/-- R73: the checksum of a command frame. -/
theorem chk8_commandHead (cmd data : Byte) : chk8 (commandHead cmd data) = 0 - (0x01 + cmd + data) := by
  apply BitVec.eq_of_toNat_eq
  rw [chk8_toNat]
  have h0 : Params.ack0.toNat = 255 := rfl
  have h1 : Params.addr.toNat = 1 := rfl
  have h2 : (0 : Byte).toNat = 0 := rfl
  have h3 : (0x01 : Byte).toNat = 1 := rfl
  simp only [commandHead, byteSum_cons, byteSum_nil, BitVec.toNat_sub, BitVec.toNat_add, h0, h1, h2, h3]
  omega

/-- R60 with R73. -/
theorem commandFrame_eq (cmd data : Byte) :
    commandFrame cmd data = [0xFF, 0x01, cmd, data, 0, 0, 0, 0, 0 - (0x01 + cmd + data)] := by
  rw [commandFrame, chk8_commandHead]; rfl

/-- A read of a range is the reads of its indices. -/
theorem fbRange_eq (s : State) (a n : Nat) : s.fbRange a n = (List.range' a n).map s.fbAt := by
  induction n generalizing a with
  | zero => rfl
  | succ n ih => simp [State.fbRange, ih, List.range'_succ]

theorem fbRange_zero_eq_frameBytes (s : State) (n : Nat) : s.fbRange 0 n = frameBytes s n := by
  rw [fbRange_eq, frameBytes, List.range_eq_range']

/-! ### The conditions -/

theorem cyc_iff (s : State) : s.cyc = true ↔ 45000 < s.ui.toNat := by
  simp [State.cyc, Params.stabMs, BitVec.lt_def]

theorem offTimeRuns_iff (s : State) :
    s.offTimeRuns = true ↔ (s.now - s.lmt).toNat < (s.ui - 45000).toNat := by
  rw [State.offTimeRuns, decide_eq_true_iff, BitVec.lt_def]; rfl

theorem warmUpRuns_iff (s : State) : s.warmUpRuns = true ↔ (s.now - s.fpt).toNat < 45000 := by
  rw [State.warmUpRuns, decide_eq_true_iff, BitVec.lt_def]; rfl

theorem gateClosed_iff (s : State) : s.gateClosed = true ↔ (s.now - s.lmt).toNat < s.ui.toNat := by
  rw [State.gateClosed, decide_eq_true_iff, BitVec.lt_def]; rfl

theorem silent_iff (s : State) : s.silent = true ↔ 500 < (s.now - s.lbt).toNat := by
  rw [State.silent, decide_eq_true_iff, BitVec.lt_def]; rfl

theorem lengthOk_iff (s : State) :
    s.lengthOk = true ↔ (s.fbAt 2).toNat * 256 + (s.fbAt 3).toNat = 28 := by
  rw [State.lengthOk, decide_eq_true_iff, ← BitVec.toNat_inj, State.be16, joinBytes_toNat]; rfl

theorem measSumOk_iff (s : State) :
    s.measSumOk = true ↔
      byteSum (frameBytes s 30) % 65536 = (s.fbAt 30).toNat * 256 + (s.fbAt 31).toNat := by
  rw [State.measSumOk, decide_eq_true_iff, ← BitVec.toNat_inj, State.be16, joinBytes_toNat, chk16, sum16_toNat,
    fbRange_zero_eq_frameBytes]

theorem ackSumOk_iff (s : State) :
    s.ackSumOk = true ↔ 255 - byteSum (frameBytes s 8) % 256 = (s.fbAt 8).toNat := by
  rw [State.ackSumOk, decide_eq_true_iff, ← BitVec.toNat_inj, chk8_toNat, fbRange_zero_eq_frameBytes]

theorem mayPublish_iff (s : State) : s.mayPublish = true ↔ s.fbAt 1 = 0x86 ∧ s.pend = true := by
  rw [State.mayPublish, Bool.and_eq_true, decide_eq_true_iff]; rfl

end Sys2Proof.Machine
end

