-- ==== Sys2Proof/Laws/Decoder.lean ====
section
/-! SUPPORT. What the verdict actions, DECODE, ON_COMPLETE and RXLOOP can do, said once. -/

namespace Sys2Proof.Machine

/-! ### The verdict actions -/

theorem reject_eq (c : Cause) (s : State) :
    reject c s = (.reject, { s with cur := 0, warn := s.warn || warns c, evq := s.evq ++ [causeEvent c] }) := by
  cases c <;> simp [reject, warns, causeEvent, State.setCur, State.setWarn, State.logEvent]

theorem continueFrame_eq (s : State) : continueFrame s = (.cont, { s with cur := s.cur + 1 }) := rfl

theorem completeFrame_eq (s : State) : completeFrame s = (.complete, s) := rfl

/-- REJECT as an outcome. -/
theorem nextVerdict_reject (c : Cause) (s : State) :
    nextVerdict (reject c s) =
      .next { s with cur := 0, warn := s.warn || warns c, evq := s.evq ++ [causeEvent c], ans := .verdict .reject } := by
  rw [reject_eq]; rfl

/-- The byte stored where DECODE stores it. -/
def stored (b : Byte) (s : State) : State := { s with fb := Memory.write s.fb s.cur.toNat b }

/-- A dispatched operation continues below index 31, rejects with a cause that is not overflow, or completes at the
final index of its shape with a checksum that matches. -/
theorem dispatch_cases (b : Byte) (s : State) :
    let r := if s.pend then decodeAckAt s.cur.toNat b s else decodeMeasAt s.cur.toNat b s
    (r = (.cont, { s with cur := s.cur + 1 }) ∧ s.cur.toNat ≤ 30) ∨
    (∃ c, c ≠ .overflow ∧ r = reject c s) ∨
    (r = (.complete, s) ∧
      ((s.pend = false ∧ s.cur.toNat = 31 ∧ s.measSumOk = true) ∨
       (s.pend = true ∧ s.cur.toNat = 8 ∧ s.ackSumOk = true))) := by
  simp only [decodeAckAt, decodeMeasAt, decM0, decM1, decM2, decM3, decMb, decM31, decMx, decA0, decAb, decA8, decAx,
    continueFrame_eq, completeFrame_eq]
  split
  · rename_i hp
    repeat' split
    all_goals first
      | (left; exact ⟨rfl, by omega⟩)
      | (right; left; exact ⟨_, by decide, rfl⟩)
      | (right; right; exact ⟨rfl, Or.inr ⟨hp, by omega, by assumption⟩⟩)
  · rename_i hp
    have hp' : s.pend = false := by simpa using hp
    repeat' split
    all_goals first
      | (left; exact ⟨rfl, by omega⟩)
      | (right; left; exact ⟨_, by decide, rfl⟩)
      | (right; right; exact ⟨rfl, Or.inl ⟨hp', by omega, by assumption⟩⟩)

/-- What DECODE can do (R100): at capacity, reject without a store; below it, store the byte and then continue,
reject or complete. -/
theorem decodeByte_cases (b : Byte) (s : State) :
    (64 ≤ s.cur.toNat ∧ decodeByte b s = reject .overflow s) ∨
    (s.cur.toNat < 64 ∧
      ((decodeByte b s = (.cont, { stored b s with cur := s.cur + 1 }) ∧ s.cur.toNat ≤ 30) ∨
       (∃ c, c ≠ .overflow ∧ decodeByte b s = reject c (stored b s)) ∨
       (decodeByte b s = (.complete, stored b s) ∧
         ((s.pend = false ∧ s.cur.toNat = 31 ∧ (stored b s).measSumOk = true) ∨
          (s.pend = true ∧ s.cur.toNat = 8 ∧ (stored b s).ackSumOk = true))))) := by
  by_cases h : Params.bufCap ≤ s.cur.toNat
  · left
    exact ⟨h, by simp only [decodeByte, if_pos h]⟩
  · right
    refine ⟨by simpa [Params.bufCap] using h, ?_⟩
    have e : decodeByte b s = (if (stored b s).pend then decodeAckAt (stored b s).cur.toNat b (stored b s)
        else decodeMeasAt (stored b s).cur.toNat b (stored b s)) := by
      simp only [decodeByte, if_neg h]; rfl
    rw [e]
    exact dispatch_cases b (stored b s)

/-- DECODE writes `FB`, `CUR`, `WARN` and `EVQ` only. -/
theorem decodeByte_frame (b : Byte) (s : State) :
    (decodeByte b s).2 =
      { s with fb := (decodeByte b s).2.fb, cur := (decodeByte b s).2.cur, warn := (decodeByte b s).2.warn,
               evq := (decodeByte b s).2.evq } := by
  rcases decodeByte_cases b s with ⟨-, h⟩ | ⟨-, ⟨h, -⟩ | ⟨c, -, h⟩ | ⟨h, -⟩⟩ <;> rw [h] <;>
    simp [reject_eq, stored]

/-! ### The parser -/

theorem publishIf_eq (att : Bool) (ch : Channel) (v : Half) (s : State) :
    publishIf att ch v s = { s with pubq := s.pubq ++ (if att then [(ch, v)] else []) } := by
  cases att <;> simp [publishIf, State.publish]

/-- What PUBLISH adds to `PUBQ` once its guard has passed. -/
def published (pm1_0 pm2_5 pm10_0 : Half) (s : State) : List (Channel × Half) :=
  (if s.attPm1_0 then [(.pm1_0, pm1_0)] else []) ++ (if s.attPm2_5 then [(.pm2_5, pm2_5)] else []) ++
    (if s.attPm10_0 then [(.pm10_0, pm10_0)] else [])

theorem publishReadings_eq (a b c : Half) (s : State) :
    publishReadings a b c s =
      { s with pubq := s.pubq ++ (if s.mayPublish then published a b c s else []) } := by
  unfold publishReadings published
  split
  · simp [publishIf_eq]
  · simp

theorem dutyDone_eq (s : State) :
    dutyDone s = { s with txq := s.txq ++ commandFrame Params.cmdPower 0x01, ds := .idle, warn := false } := by
  simp [dutyDone, sendStandby, send, Params.cmdPower, Params.cmdTrigger, State.txPush, State.setDs, State.setWarn]

/-- ON_COMPLETE (R153), all of it. -/
theorem onComplete_eq (s : State) :
    onComplete s =
      { s with
        pubq := s.pubq ++ (if s.mayPublish then published (s.be16 6) (s.be16 2) (s.be16 4) s else [])
        evq := s.evq ++ [.ok]
        lmt := s.now
        pend := false
        cur := 0
        txq := if s.cyc then s.txq ++ commandFrame Params.cmdPower 0x01 else s.txq
        ds := if s.cyc then .idle else s.ds
        warn := if s.cyc then false else s.warn } := by
  simp only [onComplete, extract, publishReadings_eq, State.logEvent, State.setPend, State.setCur]
  by_cases h : s.cyc = true
  · rw [if_pos (by exact h), dutyDone_eq]; simp [h]
  · rw [if_neg (by exact h)]; simp [h]

/-! ### The byte loop -/

/-- One byte of RXLOOP: DECODE alone, or DECODE with verdict Complete and then ON_COMPLETE. -/
theorem receiveByte_cases (b : Byte) (s : State) :
    ((decodeByte b s).1 = .complete ∧ receiveByte b s = onComplete (decodeByte b s).2) ∨
    ((decodeByte b s).1 ≠ .complete ∧ receiveByte b s = (decodeByte b s).2) := by
  unfold receiveByte
  split
  · rename_i t h; left; simp [h]
  · rename_i v t hv h
    right
    refine ⟨?_, by simp [h]⟩
    rw [h]
    exact hv

/-- A property that the queue bookkeeping and each received byte keep holds after the loop. -/
theorem receiveAll_keeps {P : State → Prop} (hq : ∀ s q e, P s → P { s with rxq := q, rxErr := e })
    (hb : ∀ b s, P s → P (receiveByte b s)) : ∀ q s, P s → P (receiveAll q s)
  | [], _, h => h
  | b :: rest, s, h => by
    unfold receiveAll
    split
    · exact hq s s.rxq none h
    · exact receiveAll_keeps hq hb rest _ (hb b _ (hq s rest _ h))

/-- The same with the stamp of RXLOOP. -/
theorem rxLoop_keeps {P : State → Prop} (hl : ∀ s t, P s → P { s with lbt := t })
    (hq : ∀ s q e, P s → P { s with rxq := q, rxErr := e })
    (hb : ∀ b s, P s → P (receiveByte b s)) (s : State) (h : P s) : P (rxLoop s) :=
  receiveAll_keeps hq hb s.rxq _ (by unfold stampRead; split; exacts [hl s s.now h, h])

/-- The fields no received byte writes. -/
theorem receiveByte_frame (b : Byte) (s : State) :
    (receiveByte b s).fpt = s.fpt ∧ (receiveByte b s).lbt = s.lbt ∧ (receiveByte b s).init = s.init ∧
    (receiveByte b s).ui = s.ui ∧ (receiveByte b s).attPm1_0 = s.attPm1_0 ∧
    (receiveByte b s).attPm2_5 = s.attPm2_5 ∧ (receiveByte b s).attPm10_0 = s.attPm10_0 ∧
    (receiveByte b s).rxq = s.rxq ∧ (receiveByte b s).now = s.now ∧ (receiveByte b s).rxErr = s.rxErr ∧
    (receiveByte b s).script = s.script ∧ (receiveByte b s).ans = s.ans := by
  have hf := decodeByte_frame b s
  rcases receiveByte_cases b s with ⟨-, h⟩ | ⟨-, h⟩ <;> rw [h]
  · rw [onComplete_eq, hf]; simp
  · rw [hf]; simp

end Sys2Proof.Machine
end

