-- ==== Sys2Proof/Laws/Driver.lean ====
section
/-! SUPPORT. What INIT, the duty operations, STALE, the byte loop and TICK do, each said once. -/

namespace Sys2Proof.Machine

/-! ### Operations of the tick -/

theorem stale_eq (s : State) :
    stale s = if s.silent then { s with cur := 0, evq := if s.cur = 0 then s.evq else s.evq ++ [.e4] } else s := by
  unfold stale
  split
  · by_cases h : s.cur = 0
    · rw [if_neg (fun x => x h), if_pos h]; rfl
    · rw [if_pos h, if_neg h]; rfl
  · rfl

theorem initOp_eq (s : State) :
    initOp s =
      { s with
        init := true
        txq := if s.init then s.txq
          else if s.cyc then s.txq ++ Command.bytes .modeQa else s.txq ++ Command.bytes .modeActive } := by
  unfold initOp
  by_cases hi : s.init = true
  · rw [if_pos hi, if_pos hi, ← hi]
  · rw [if_neg hi, if_neg hi]
    split <;> rfl

theorem dutyIdle_eq (s : State) :
    dutyIdle s =
      if s.offTimeRuns then s
      else { s with txq := s.txq ++ Command.bytes .powerOn, fpt := s.now, ds := .stabilising } := by
  unfold dutyIdle
  split <;> rfl

/-- DRAIN writes `RXQ` and takes a read failure's count down, nothing else. -/
theorem drain_frame (s : State) : drain s = { s with rxq := (drain s).rxq, rxErr := (drain s).rxErr } := by
  unfold drain
  split
  · rfl
  · split <;> rfl

theorem dutyStab_eq (s : State) :
    dutyStab s =
      if s.warmUpRuns then s
      else { s with
        rxq := (drain s).rxq, rxErr := (drain s).rxErr
        txq := s.txq ++ Command.bytes .trigger, pend := true, ds := .waiting } := by
  unfold dutyStab
  split
  · rfl
  · rw [drain_frame s]; rfl

/-- TICK by the branch it takes, on the state INIT left (R180). -/
theorem tick_cases (s : State) :
    let s0 := initOp s
    (s.cyc = true ∧ s.ds = .idle ∧ tick s = dutyIdle s0) ∨
    (s.cyc = true ∧ s.ds = .stabilising ∧ tick s = dutyStab s0) ∨
    (s.cyc = true ∧ s.ds = .waiting ∧ tick s = readBytes s0) ∨
    (s.cyc = false ∧ s.gateClosed = true ∧ tick s = s0) ∨
    (s.cyc = false ∧ s.gateClosed = false ∧ tick s = readBytes s0) := by
  have hc : (initOp s).cyc = s.cyc := by rw [initOp_eq]; rfl
  have hd : (initOp s).ds = s.ds := by rw [initOp_eq]
  have hg : (initOp s).gateClosed = s.gateClosed := by rw [initOp_eq]; rfl
  simp only [tick, hc, hd, hg]
  cases h : s.cyc
  · cases s.gateClosed <;> simp
  · cases s.ds <;> simp

/-- The reading steps: STALE, then the loop where something is offered. -/
theorem readBytes_cases (s : State) :
    (s.rxq = [] ∧ readBytes s = stale s) ∨ (s.rxq ≠ [] ∧ readBytes s = rxLoop (stale s)) := by
  have hq : (stale s).rxq = s.rxq := by rw [stale_eq]; split <;> rfl
  simp only [readBytes, State.rxAvail, hq]
  cases s.rxq <;> simp

/-- A property that INIT, the two transitions, the stale reset, the queue bookkeeping and each received byte keep is
kept by TICK. -/
theorem readBytes_keeps {P : State → Prop} (hs : ∀ s, P s → P (stale s)) (hl : ∀ s t, P s → P { s with lbt := t })
    (hq : ∀ s q e, P s → P { s with rxq := q, rxErr := e }) (hb : ∀ b s, P s → P (receiveByte b s))
    (s : State) (h : P s) : P (readBytes s) := by
  rcases readBytes_cases s with ⟨-, e⟩ | ⟨-, e⟩ <;> rw [e]
  · exact hs s h
  · exact rxLoop_keeps hl hq hb _ (hs s h)

/-! ### Fields the decoder and the parser do not read -/

/-- The state with the fields that no operation of the byte loop reads set anew. -/
def State.reseat (s : State) (l : Time) (q : List Byte) (e : Option Nat) (sc : List Stimulus) (a : Answer) : State :=
  { s with lbt := l, rxq := q, rxErr := e, script := sc, ans := a }

section reseat
variable (l : Time) (q : List Byte) (e : Option Nat) (sc : List Stimulus) (a : Answer)

theorem decodeByte_reseat (b : Byte) (s : State) :
    decodeByte b (s.reseat l q e sc a) = ((decodeByte b s).1, (decodeByte b s).2.reseat l q e sc a) := by
  have meas : ∀ (i : Nat) (s : State), decodeMeasAt i b (s.reseat l q e sc a) =
      ((decodeMeasAt i b s).1, (decodeMeasAt i b s).2.reseat l q e sc a) := by
    intro i s
    have h3 : decM3 (s.reseat l q e sc a) = ((decM3 s).1, (decM3 s).2.reseat l q e sc a) := by
      show (if s.lengthOk = true then _ else _) = _
      unfold decM3; split <;> rfl
    have h31 : decM31 (s.reseat l q e sc a) = ((decM31 s).1, (decM31 s).2.reseat l q e sc a) := by
      show (if s.measSumOk = true then _ else _) = _
      unfold decM31; split <;> rfl
    unfold decodeMeasAt
    split_ifs
    · unfold decM0; split <;> rfl
    · unfold decM1; split <;> rfl
    · rfl
    · exact h3
    · rfl
    · exact h31
    · rfl
  have ack : ∀ (i : Nat) (s : State), decodeAckAt i b (s.reseat l q e sc a) =
      ((decodeAckAt i b s).1, (decodeAckAt i b s).2.reseat l q e sc a) := by
    intro i s
    have h8 : decA8 (s.reseat l q e sc a) = ((decA8 s).1, (decA8 s).2.reseat l q e sc a) := by
      show (if s.ackSumOk = true then _ else _) = _
      unfold decA8; split <;> rfl
    unfold decodeAckAt
    split_ifs
    · unfold decA0; split <;> rfl
    · rfl
    · exact h8
    · rfl
  unfold decodeByte
  show (if Params.bufCap ≤ s.cur.toNat then reject .overflow (s.reseat l q e sc a) else
    if s.pend = true then decodeAckAt s.cur.toNat b ((s.storeFb s.cur.toNat b).reseat l q e sc a)
    else decodeMeasAt s.cur.toNat b ((s.storeFb s.cur.toNat b).reseat l q e sc a)) = _
  by_cases h1 : Params.bufCap ≤ s.cur.toNat
  · rw [if_pos h1, if_pos h1]; rfl
  · rw [if_neg h1, if_neg h1]
    show _ = ((if s.pend = true then _ else _ : Verdict × State).1,
      (if s.pend = true then _ else _ : Verdict × State).2.reseat l q e sc a)
    by_cases h2 : s.pend = true
    · rw [if_pos h2, if_pos h2]; exact ack _ _
    · rw [if_neg h2, if_neg h2]; exact meas _ _

theorem onComplete_reseat (s : State) :
    onComplete (s.reseat l q e sc a) = (onComplete s).reseat l q e sc a := by
  rw [onComplete_eq, onComplete_eq]; rfl

theorem receiveByte_reseat (b : Byte) (s : State) :
    receiveByte b (s.reseat l q e sc a) = (receiveByte b s).reseat l q e sc a := by
  unfold receiveByte
  rw [decodeByte_reseat]
  rcases decodeByte b s with ⟨v, t⟩
  cases v
  · rfl
  · rfl
  · exact onComplete_reseat l q e sc a t

end reseat

/-! ### The last answer is read by nothing -/

theorem receiveAll_answer (a : Answer) (q : List Byte) (s : State) :
    receiveAll q (s.answer a) = (receiveAll q s).answer a := by
  induction q generalizing s with
  | nil => rfl
  | cons b r ih =>
    have e : ∀ e' : Option Nat, receiveByte b { s.answer a with rxq := r, rxErr := e' } =
        (receiveByte b { s with rxq := r, rxErr := e' }).answer a := by
      intro e'
      have h1 := receiveByte_reseat s.lbt r e' s.script a b s
      have h2 := receiveByte_reseat s.lbt r e' s.script s.ans b s
      have h3 : receiveByte b { s with rxq := r, rxErr := e' } = _ := h2
      rw [h3]
      exact h1
    cases he : s.rxErr with
    | none =>
      have he' : (s.answer a).rxErr = none := he
      simp only [receiveAll, he, he', e, ih, Option.map_none]
    | some n =>
      have he' : (s.answer a).rxErr = some n := he
      cases n with
      | zero => simp only [receiveAll, he, he']; rfl
      | succ n => simp only [receiveAll, he, he', e, ih]

theorem stampRead_answer (a : Answer) (s : State) : stampRead (s.answer a) = (stampRead s).answer a := by
  have h : (s.answer a).takesByte = s.takesByte := rfl
  unfold stampRead
  rw [h]
  cases s.takesByte <;> rfl

theorem rxLoop_answer (a : Answer) (s : State) : rxLoop (s.answer a) = (rxLoop s).answer a := by
  unfold rxLoop
  rw [stampRead_answer]
  exact receiveAll_answer a s.rxq (stampRead s)

theorem stale_answer (a : Answer) (s : State) : stale (s.answer a) = (stale s).answer a := by
  have h : (s.answer a).silent = s.silent := rfl
  rw [stale_eq, stale_eq, h]
  cases s.silent <;> rfl

theorem drain_answer (a : Answer) (s : State) : drain (s.answer a) = (drain s).answer a := by
  cases he : s.rxErr with
  | none =>
    have he' : (s.answer a).rxErr = none := he
    simp only [drain, he, he']; rfl
  | some n =>
    have he' : (s.answer a).rxErr = some n := he
    have hq : (s.answer a).rxq = s.rxq := rfl
    simp only [drain, he, he', hq]
    by_cases h : n < s.rxq.length
    · rw [if_pos h, if_pos h]; rfl
    · rw [if_neg h, if_neg h]; rfl

theorem dutyIdle_answer (a : Answer) (s : State) : dutyIdle (s.answer a) = (dutyIdle s).answer a := by
  have h : (s.answer a).offTimeRuns = s.offTimeRuns := rfl
  rw [dutyIdle_eq, dutyIdle_eq, h]
  cases s.offTimeRuns <;> rfl

theorem dutyStab_answer (a : Answer) (s : State) : dutyStab (s.answer a) = (dutyStab s).answer a := by
  have h : (s.answer a).warmUpRuns = s.warmUpRuns := rfl
  rw [dutyStab_eq, dutyStab_eq, h, drain_answer]
  cases s.warmUpRuns <;> rfl

@[simp] theorem answer_answer (a b : Answer) (s : State) : (s.answer a).answer b = s.answer b := rfl

/-! ### The loop without a read failure -/

/-- The bytes decoded one after the other, no queue involved. -/
def decodeAll : List Byte → State → State
  | [], s => s
  | b :: rest, s => decodeAll rest (receiveByte b s)

theorem decodeAll_append (x y : List Byte) (s : State) : decodeAll (x ++ y) s = decodeAll y (decodeAll x s) := by
  induction x generalizing s with
  | nil => rfl
  | cons b r ih => exact ih _

theorem decodeAll_reseat (l : Time) (q : List Byte) (e : Option Nat) (sc : List Stimulus) (a : Answer)
    (bytes : List Byte) (s : State) :
    decodeAll bytes (s.reseat l q e sc a) = (decodeAll bytes s).reseat l q e sc a := by
  induction bytes generalizing s with
  | nil => rfl
  | cons b r ih => rw [decodeAll, receiveByte_reseat, ih]; rfl

/-- What the loop never writes. -/
theorem decodeAll_frame (bytes : List Byte) (s : State) :
    decodeAll bytes s = (decodeAll bytes s).reseat s.lbt s.rxq s.rxErr s.script s.ans := by
  have h := decodeAll_reseat s.lbt s.rxq s.rxErr s.script s.ans bytes s
  exact h

/-- What RXLOOP leaves in `LBT`: `now` where it takes a byte, the old mark otherwise (D21). -/
def readMark (s : State) : Time := if s.takesByte then s.now else s.lbt

theorem stampRead_eq (s : State) : stampRead s = { s with lbt := readMark s } := by
  unfold stampRead readMark
  cases s.takesByte <;> rfl

theorem takesByte_iff (s : State) : s.takesByte = true ↔ s.rxq ≠ [] ∧ s.rxErr ≠ some 0 := by
  simp [State.takesByte]

/-- The loop never writes `LBT`: a read that fails takes no byte. -/
theorem receiveAll_lbt (q : List Byte) (s : State) : (receiveAll q s).lbt = s.lbt :=
  receiveAll_keeps (P := fun t => t.lbt = s.lbt) (fun _ _ _ h => h)
    (fun b t h => (receiveByte_frame b t).2.1.trans h) q s rfl

/-- `LBT` after RXLOOP, from every state (R26, R246). -/
theorem rxLoop_lbt (s : State) : (rxLoop s).lbt = readMark s := by
  unfold rxLoop
  rw [receiveAll_lbt, stampRead_eq]

/-- RXLOOP with no read failure to come: the bytes decoded, `LBT` stamped where there are any, `RXQ` empty (R183). -/
theorem rxLoop_eq (s : State) (h : s.rxErr = none) :
    rxLoop s = (decodeAll s.rxq s).reseat (readMark s) [] none s.script s.ans := by
  have key : ∀ (bytes : List Byte) (s : State), s.rxErr = none → s.rxq = bytes →
      receiveAll bytes s = (decodeAll bytes s).reseat s.lbt [] none s.script s.ans := by
    intro bytes
    induction bytes with
    | nil =>
      intro s he hq
      show s = s.reseat s.lbt [] none s.script s.ans
      rw [← he, ← hq]; rfl
    | cons b rest ih =>
      intro s he hq
      rw [receiveAll]
      have e1 : (receiveByte b { s with rxq := rest, rxErr := none }) =
          (receiveByte b s).reseat s.lbt rest none s.script s.ans :=
        receiveByte_reseat s.lbt rest none s.script s.ans b s
      rw [he]
      simp only [Option.map_none]
      rw [e1, ih _ rfl rfl, decodeAll_reseat]
      rfl
  unfold rxLoop
  rw [stampRead_eq, key s.rxq { s with lbt := readMark s } h rfl]
  have := decodeAll_reseat (readMark s) s.rxq s.rxErr s.script s.ans s.rxq s
  rw [show ({ s with lbt := readMark s } : State) = s.reseat (readMark s) s.rxq s.rxErr s.script s.ans from rfl, this]
  rfl

/-- RXLOOP as an outcome. -/
theorem exec_rxloop_eq (s : State) (h : s.rxErr = none) :
    exec .rxloop s = .next ((decodeAll s.rxq s).reseat (readMark s) [] none s.script .nothing) := by
  show Host.Outcome.next ((rxLoop s).answer .nothing) = _
  rw [rxLoop_eq s h]; rfl

/-- An inbound frame where nothing was queued (log 11). -/
theorem receiveFrame_eq (frame : List Byte) (s : State) (h : s.rxErr = none) (hq : s.rxq = []) (hf : frame ≠ []) :
    (receiveFrame frame s).answer .nothing = (decodeAll frame s).reseat s.now [] none s.script .nothing := by
  have hm : readMark { s with rxq := s.rxq ++ frame } = s.now := by
    unfold readMark
    rw [if_pos ((takesByte_iff _).2 ⟨by simp [hq, hf], by simp [h]⟩)]
  unfold receiveFrame
  rw [rxLoop_eq _ (by exact h), hm]
  show ((decodeAll (s.rxq ++ frame) { s with rxq := s.rxq ++ frame }).reseat s.now [] none s.script s.ans).answer
    .nothing = _
  rw [hq, show ({ s with rxq := [] ++ frame } : State) = s.reseat s.lbt frame none s.script s.ans by rw [← h]; rfl,
    decodeAll_reseat]
  rfl

end Sys2Proof.Machine
end

