-- ==== Sys2Proof/Laws/Frames.lean ====
section
/-! SUPPORT. What a run of accepted bytes does: the bytes land in `FB` from the cursor on, and the cursor moves past
them. The byte loop and the batch scan are said together. -/

namespace Sys2Proof.Machine

/-! ### Bytes laid down one after the other -/

/-- The memory after the bytes are stored from an address on. -/
def Memory.fill : Memory → Nat → List Byte → Memory
  | m, _, [] => m
  | m, a, b :: rest => Memory.fill (Memory.write m a b) (a + 1) rest

theorem Memory.wf_fill {l : List Byte} {m : Memory} {a : Nat} (h : Memory.wf m = true)
    (hl : a + l.length ≤ Params.bufCap) : Memory.wf (Memory.fill m a l) = true := by
  induction l generalizing m a with
  | nil => exact h
  | cons b r ih =>
    simp only [List.length_cons] at hl
    exact ih (Memory.wf_write b h (by omega)) (by omega)

theorem Memory.read_fill_outside {l : List Byte} {m : Memory} {a i : Nat} (hi : i < a ∨ a + l.length ≤ i) :
    Memory.read (Memory.fill m a l) i = Memory.read m i := by
  induction l generalizing m a with
  | nil => rfl
  | cons b r ih =>
    simp only [List.length_cons] at hi
    rw [Memory.fill, ih (by omega), Memory.read_write_other (by omega)]

theorem Memory.read_fill_inside {l : List Byte} {m : Memory} {a i : Nat} (h : Memory.wf m = true)
    (hl : a + l.length ≤ Params.bufCap) (hi : i < l.length) :
    Memory.read (Memory.fill m a l) (a + i) = l.getD i 0 := by
  induction l generalizing m a i with
  | nil => exact absurd hi (Nat.not_lt_zero _)
  | cons b r ih =>
    simp only [List.length_cons] at hl hi
    cases i with
    | zero =>
      show Memory.read (Memory.fill (Memory.write m a b) (a + 1) r) a = b
      rw [Memory.read_fill_outside (by omega), Memory.read_write_same h]
    | succ i =>
      rw [Memory.fill, show a + (i + 1) = a + 1 + i by omega,
        ih (Memory.wf_write b h (by omega)) (by omega) (by omega)]
      rfl

theorem Memory.fill_append (m : Memory) (a : Nat) (l r : List Byte) :
    Memory.fill m a (l ++ r) = Memory.fill (Memory.fill m a l) (a + l.length) r := by
  induction l generalizing m a with
  | nil => rfl
  | cons b l ih => simp only [List.cons_append, Memory.fill, ih, List.length_cons]; congr 1; omega

/-! ### Accepted bytes -/

/-- The state with the bytes stored from the cursor on and the cursor past them. -/
def State.took (s : State) (l : List Byte) : State :=
  { s with fb := Memory.fill s.fb s.cur.toNat l, cur := s.cur + BitVec.ofNat 7 l.length }

/-- The bytes are accepted one after the other: no Reject, no Complete. -/
def Accepts : List Byte → State → Prop
  | [], _ => True
  | b :: rest, s => decodeByte b s = (.cont, s.took [b]) ∧ Accepts rest (s.took [b])

theorem cur_add_one {c : BitVec 7} (h : c.toNat < 127) : (c + 1).toNat = c.toNat + 1 := by
  rw [BitVec.toNat_add]; simp; omega

theorem took_nil (s : State) : s.took [] = s := by
  show { s with fb := s.fb, cur := s.cur + 0#7 } = s
  rw [BitVec.add_zero]

theorem took_cons {s : State} {b : Byte} {l : List Byte} (h : s.cur.toNat < 64) :
    s.took (b :: l) = (s.took [b]).took l := by
  have e : (s.cur + 1).toNat = s.cur.toNat + 1 := cur_add_one (by omega)
  have hc : s.cur + BitVec.ofNat 7 (l.length + 1) = s.cur + 1 + BitVec.ofNat 7 l.length := by
    apply BitVec.eq_of_toNat_eq
    have e1 : (1 : BitVec 7).toNat = 1 := rfl
    simp only [BitVec.toNat_add, BitVec.toNat_ofNat, e1]
    omega
  show ({ s with fb := Memory.fill (Memory.write s.fb s.cur.toNat b) (s.cur.toNat + 1) l,
                 cur := s.cur + BitVec.ofNat 7 (l.length + 1) } : State) =
    { s with fb := Memory.fill (Memory.write s.fb s.cur.toNat b) (s.cur + 1).toNat l,
             cur := s.cur + 1 + BitVec.ofNat 7 l.length }
  rw [e, hc]

theorem took_cur {s : State} {l : List Byte} (h : s.cur.toNat + l.length ≤ 64) :
    (s.took l).cur.toNat = s.cur.toNat + l.length := by
  show (s.cur + BitVec.ofNat 7 l.length).toNat = _
  rw [BitVec.toNat_add, BitVec.toNat_ofNat]; omega

theorem took_wf {s : State} {l : List Byte} (hw : Memory.wf s.fb = true) (h : s.cur.toNat + l.length ≤ 64) :
    Memory.wf (s.took l).fb = true :=
  Memory.wf_fill hw h

/-- The loop over accepted bytes and then more. -/
theorem decodeAll_accepts {l rest : List Byte} {s : State} (h : Accepts l s) (hl : s.cur.toNat + l.length ≤ 64) :
    decodeAll (l ++ rest) s = decodeAll rest (s.took l) := by
  induction l generalizing s with
  | nil => rw [took_nil]; rfl
  | cons b r ih =>
    simp only [List.length_cons] at hl
    have e : receiveByte b s = s.took [b] := by unfold receiveByte; rw [h.1]
    rw [took_cons (by omega), ← ih h.2 (by rw [took_cur (by simp; omega)]; simp; omega)]
    show decodeAll (r ++ rest) (receiveByte b s) = _
    rw [e]

/-- The scan over accepted bytes and then more. -/
theorem classifyScan_accepts {l rest : List Byte} {s : State} (h : Accepts l s)
    (hl : s.cur.toNat + l.length ≤ 64) :
    classifyScan (l ++ rest) s = List.replicate l.length .cont ++ classifyScan rest (s.took l) := by
  induction l generalizing s with
  | nil => rw [took_nil]; rfl
  | cons b r ih =>
    simp only [List.length_cons] at hl
    rw [took_cons (by omega), List.length_cons, List.replicate_succ, List.cons_append, List.cons_append,
      ← ih h.2 (by rw [took_cur (by simp; omega)]; simp; omega), classifyScan, h.1]

/-- Acceptance in two parts. -/
theorem accepts_append {l r : List Byte} {s : State} (hl : s.cur.toNat + l.length ≤ 64)
    (h1 : Accepts l s) (h2 : Accepts r (s.took l)) : Accepts (l ++ r) s := by
  induction l generalizing s with
  | nil => rwa [took_nil] at h2
  | cons b l ih =>
    simp only [List.length_cons] at hl
    rw [took_cons (by omega)] at h2
    exact ⟨h1.1, ih (by rw [took_cur (by simp; omega)]; simp; omega) h1.2 h2⟩

/-- Below index 31 DECODE's dispatch, on the byte already stored. -/
theorem decodeByte_below (b : Byte) (s : State) (h : s.cur.toNat < 64) :
    decodeByte b s =
      if s.pend then decodeAckAt s.cur.toNat b (s.storeFb s.cur.toNat b)
      else decodeMeasAt s.cur.toNat b (s.storeFb s.cur.toNat b) := by
  unfold decodeByte
  rw [if_neg (by show ¬ 64 ≤ s.cur.toNat; omega)]; rfl

/-- Bytes 1 to 7 of the ack shape (R109). -/
theorem ack_body_accepts {l : List Byte} {s : State} (hp : s.pend = true) (h1 : 1 ≤ s.cur.toNat)
    (hl : s.cur.toNat + l.length ≤ 8) : Accepts l s := by
  induction l generalizing s with
  | nil => trivial
  | cons b r ih =>
    simp only [List.length_cons] at hl
    refine ⟨?_, ih hp ?_ ?_⟩
    · rw [decodeByte_below b s (by omega), if_pos hp, decodeAckAt, if_neg (by omega), if_pos (by omega)]; rfl
    · rw [took_cur (by simp; omega)]; simp
    · rw [took_cur (by simp; omega)]; simp; omega

/-- Bytes 4 to 30 of the measurement shape (R105). -/
theorem meas_body_accepts {l : List Byte} {s : State} (hp : s.pend = false) (h4 : 4 ≤ s.cur.toNat)
    (hl : s.cur.toNat + l.length ≤ 31) : Accepts l s := by
  induction l generalizing s with
  | nil => trivial
  | cons b r ih =>
    simp only [List.length_cons] at hl
    refine ⟨?_, ih hp ?_ ?_⟩
    · rw [decodeByte_below b s (by omega), if_neg (by simp [hp]), decodeMeasAt, if_neg (by omega), if_neg (by omega),
        if_neg (by omega), if_neg (by omega), if_pos (by omega)]; rfl
    · rw [took_cur (by simp; omega)]; simp; omega
    · rw [took_cur (by simp; omega)]; simp; omega

/-- The start byte of the ack shape (R108). -/
theorem ack_start_accepts {s : State} (hp : s.pend = true) (h0 : s.cur.toNat = 0) : Accepts [Params.ack0] s := by
  refine ⟨?_, trivial⟩
  rw [decodeByte_below _ s (by omega), if_pos hp, decodeAckAt, if_pos h0]; rfl

/-- The header of the measurement shape (R101 to R104). -/
theorem meas_head_accepts {s : State} (hp : s.pend = false) (hw : Memory.wf s.fb = true) (h0 : s.cur.toNat = 0) :
    Accepts measHead s := by
  have c1 : (s.took [0x42]).cur.toNat = 1 := by rw [took_cur (by show _ + 1 ≤ 64; omega)]; show _ + 1 = _; omega
  have c2 : ((s.took [0x42]).took [0x4D]).cur.toNat = 2 := by rw [took_cur (by show _ + 1 ≤ 64; omega)]; show _ + 1 = _; omega
  have c3 : (((s.took [0x42]).took [0x4D]).took [0x00]).cur.toNat = 3 := by
    rw [took_cur (by show _ + 1 ≤ 64; omega)]; show _ + 1 = _; omega
  have w2 : Memory.wf ((s.took [0x42]).took [0x4D]).fb = true :=
    took_wf (took_wf hw (by show _ + 1 ≤ 64; omega)) (by show _ + 1 ≤ 64; omega)
  refine ⟨?_, ?_, ?_, ?_, trivial⟩
  · rw [decodeByte_below _ s (by omega), if_neg (by simp [hp]), decodeMeasAt, if_pos h0]; rfl
  · show decodeByte _ (s.took [0x42]) = _
    rw [decodeByte_below _ _ (by omega), if_neg (by show ¬ s.pend = true; simp [hp]), decodeMeasAt,
      if_neg (by omega), if_pos c1]; rfl
  · show decodeByte (0x00 : Byte) ((s.took [0x42]).took [0x4D]) = _
    rw [decodeByte_below _ _ (by omega), if_neg (by show ¬ s.pend = true; simp [hp]), decodeMeasAt,
      if_neg (by omega), if_neg (by omega), if_pos c2]; rfl
  · show decodeByte (0x1C : Byte) (((s.took [0x42]).took [0x4D]).took [0x00]) = _
    rw [decodeByte_below _ _ (by omega), if_neg (by show ¬ s.pend = true; simp [hp]), decodeMeasAt,
      if_neg (by omega), if_neg (by omega), if_neg (by omega), if_pos c3, decM3, if_pos]
    · rfl
    · rw [lengthOk_iff, c3]
      have r3 := State.storeFb_fbAt_same (s := ((s.took [0x42]).took [0x4D]).took [0x00]) (a := 3) (v := (0x1C : Byte))
        (took_wf w2 (by show _ + 1 ≤ 64; omega))
      have r2 : ((((s.took [0x42]).took [0x4D]).took [0x00]).storeFb 3 (0x1C : Byte)).fbAt 2 = 0x00 := by
        rw [State.storeFb_fbAt_other (by omega)]
        show Memory.read (Memory.fill ((s.took [0x42]).took [0x4D]).fb ((s.took [0x42]).took [0x4D]).cur.toNat [0x00]) 2 = _
        rw [c2]
        exact Memory.read_write_same w2
      rw [r2, r3]; rfl

/-! ### The last byte -/

/-- Byte 8 of the ack shape (R110). -/
theorem ack_last {s : State} {b : Byte} (hp : s.pend = true) (h : s.cur.toNat = 8) :
    decodeByte b s = if (stored b s).ackSumOk then (.complete, stored b s) else reject .checksum (stored b s) := by
  rw [decodeByte_below _ _ (by omega), if_pos hp, decodeAckAt, if_neg (by omega), if_neg (by omega), if_pos h]; rfl

/-- Byte 31 of the measurement shape (R106). -/
theorem meas_last {s : State} {b : Byte} (hp : s.pend = false) (h : s.cur.toNat = 31) :
    decodeByte b s = if (stored b s).measSumOk then (.complete, stored b s) else reject .checksum (stored b s) := by
  rw [decodeByte_below _ _ (by omega), if_neg (by simp [hp]), decodeMeasAt, if_neg (by omega), if_neg (by omega),
    if_neg (by omega), if_neg (by omega), if_neg (by omega), if_pos h]; rfl

/-! ### Whole frames from index 0 -/

/-- The bytes laid down from index 0 read back; the others read as before. -/
theorem frame_reads {s : State} {l : List Byte} (hw : Memory.wf s.fb = true) (hc : s.cur.toNat = 0)
    (hl : l.length ≤ 64) (i : Nat) :
    (s.took l).fbAt i = if i < l.length then l.getD i 0 else s.fbAt i := by
  show Memory.read (Memory.fill s.fb s.cur.toNat l) i = _
  rw [hc]
  split
  · have := Memory.read_fill_inside (l := l) (m := s.fb) (a := 0) (i := i) hw (by show 0 + l.length ≤ 64; omega) ‹_›
    simpa using this
  · rw [Memory.read_fill_outside (by omega)]; rfl

/-- The last byte of a frame, stored behind the bytes accepted. -/
theorem stored_took {s : State} {l : List Byte} {b : Byte} (hc : s.cur.toNat = 0) (hl : l.length ≤ 63) :
    stored b (s.took l) = { s.took (l ++ [b]) with cur := s.cur + BitVec.ofNat 7 l.length } := by
  have : (s.took l).cur.toNat = l.length := by rw [took_cur (by omega)]; omega
  unfold stored
  rw [this]
  show ({ s with fb := _, cur := _ } : State) = { s with fb := Memory.fill s.fb s.cur.toNat (l ++ [b]), cur := _ }
  rw [Memory.fill_append, hc]
  show _ = ({ s with fb := Memory.write (Memory.fill s.fb 0 l) (0 + l.length) b, cur := _ } : State)
  rw [Nat.zero_add]
  show ({ s with fb := Memory.write (Memory.fill s.fb s.cur.toNat l) _ _, cur := _ } : State) = _
  rw [hc]; rfl

/-- The bytes a checksum is taken over. -/
theorem frameBytes_took {s : State} {l : List Byte} {n : Nat} {c : BitVec 7} (hw : Memory.wf s.fb = true)
    (hc : s.cur.toNat = 0) (hl : l.length ≤ 64) (hn : n ≤ l.length) :
    frameBytes { s.took l with cur := c } n = l.take n := by
  apply List.ext_getElem
  · simp [frameBytes]; omega
  · intro i h1 h2
    simp only [frameBytes, List.getElem_map, List.getElem_range, List.getElem_take]
    show (s.took l).fbAt i = _
    have : i < l.length := by simp at h2; omega
    rw [frame_reads hw hc hl, if_pos this, List.getD_eq_getElem _ _ this]

/-- A whole ack-shape frame: eight accepted bytes, then the checksum byte decides (R110). -/
theorem ack_frame_last {s : State} {body : List Byte} {chk : Byte} (hb : body.length = 7)
    (hw : Memory.wf s.fb = true) (hp : s.pend = true) (hc : s.cur.toNat = 0) :
    Accepts (0xFF :: body) s ∧ decodeByte chk (s.took (0xFF :: body)) =
     (if (255 + byteSum body + chk.toNat) % 256 = 255 then (.complete, stored chk (s.took (0xFF :: body)))
      else reject .checksum (stored chk (s.took (0xFF :: body)))) := by
  have hlen : (0xFF :: body : List Byte).length = 8 := by simp [hb]
  have c0 : (s.took [(0xFF : Byte)]).cur.toNat = 1 := by rw [took_cur (by show _ + 1 ≤ 64; omega)]; show _ + 1 = 1; omega
  have c8 : (s.took (0xFF :: body)).cur.toNat = 8 := by rw [took_cur (by omega)]; omega
  constructor
  · exact accepts_append (l := [0xFF]) (r := body) (by show _ + 1 ≤ 64; omega) (ack_start_accepts hp hc)
      (ack_body_accepts hp (by omega) (by omega))
  · rw [ack_last (s := s.took (0xFF :: body)) hp c8]
    have e := ackSumOk_iff (stored chk (s.took (0xFF :: body)))
    rw [stored_took hc (by omega), frameBytes_took hw hc (by simp; omega) (by simp; omega)] at e
    have f8 : ({ s.took ((0xFF :: body) ++ [chk]) with cur := s.cur + BitVec.ofNat 7 (0xFF :: body : List Byte).length } : State).fbAt 8 = chk := by
      show (s.took ((0xFF :: body) ++ [chk])).fbAt 8 = chk
      rw [frame_reads hw hc (by simp; omega), if_pos (by simp; omega), List.getD_append_right _ _ _ _ (by omega), hlen]; rfl
    rw [f8, List.take_left' hlen] at e
    rw [← stored_took hc (by omega)] at e
    have hk := chk.isLt
    simp only [byteSum_cons] at e
    have : ((0xFF : Byte).toNat) = 255 := rfl
    rw [this] at e
    have e2 : (255 - (255 + byteSum body) % 256 = chk.toNat) ↔ (255 + byteSum body + chk.toNat) % 256 = 255 := by omega
    rw [e2] at e
    by_cases h : (255 + byteSum body + chk.toNat) % 256 = 255
    · rw [if_pos h, if_pos (e.2 h)]
    · rw [if_neg h, if_neg (fun x => h (e.1 x))]

/-- A whole measurement frame: 31 accepted bytes, then the checksum field decides (R106). -/
theorem meas_frame_last {s : State} {data : List Byte} {h l : Byte} (hb : data.length = 26)
    (hw : Memory.wf s.fb = true) (hp : s.pend = false) (hc : s.cur.toNat = 0) :
    Accepts (measHead ++ (data ++ [h])) s ∧ decodeByte l (s.took (measHead ++ (data ++ [h]))) =
     (if 171 + byteSum data = h.toNat * 256 + l.toNat then (.complete, stored l (s.took (measHead ++ (data ++ [h]))))
      else reject .checksum (stored l (s.took (measHead ++ (data ++ [h]))))) := by
  have hlen : (measHead ++ (data ++ [h])).length = 31 := by simp [hb, measHead]
  have c4 : (s.took measHead).cur.toNat = 4 := by rw [took_cur (by show _ + 4 ≤ 64; omega)]; show _ + 4 = 4; omega
  have c31 : (s.took (measHead ++ (data ++ [h]))).cur.toNat = 31 := by rw [took_cur (by omega)]; omega
  constructor
  · exact accepts_append (by show _ + 4 ≤ 64; omega) (meas_head_accepts hp hw hc) (meas_body_accepts hp (by omega) (by rw [c4]; simp [hb]))
  · rw [meas_last (s := s.took _) hp c31]
    have e := measSumOk_iff (stored l (s.took (measHead ++ (data ++ [h]))))
    rw [stored_took hc (by omega), frameBytes_took hw hc (by simp [measHead, hb]) (by simp [measHead, hb])] at e
    have f : ∀ i, i < 32 → ({ s.took ((measHead ++ (data ++ [h])) ++ [l]) with cur := s.cur + BitVec.ofNat 7 (measHead ++ (data ++ [h])).length } : State).fbAt i = ((measHead ++ (data ++ [h])) ++ [l]).getD i 0 := by
      intro i hi
      show (s.took ((measHead ++ (data ++ [h])) ++ [l])).fbAt i = _
      rw [frame_reads hw hc (by simp [measHead, hb]), if_pos (by simp [measHead, hb]; omega)]
    have hL : (measHead ++ (data ++ [h])) ++ [l] = (measHead ++ data) ++ [h, l] := by simp
    have hl30 : (measHead ++ data).length = 30 := by simp [measHead, hb]
    have f30 : ((measHead ++ (data ++ [h])) ++ [l]).getD 30 0 = h := by
      rw [hL, List.getD_append_right _ _ _ _ (by omega), hl30]; rfl
    have f31 : ((measHead ++ (data ++ [h])) ++ [l]).getD 31 0 = l := by
      rw [hL, List.getD_append_right _ _ _ _ (by omega), hl30]; rfl
    rw [f 30 (by omega), f 31 (by omega), f30, f31, ← stored_took hc (by omega)] at e
    rw [hL, List.take_left' hl30] at e
    have hs : byteSum (measHead ++ data) = 171 + byteSum data := by rw [byteSum_append]; rfl
    have hbd := byteSum_le data
    rw [hs, Nat.mod_eq_of_lt (by omega)] at e
    by_cases x : 171 + byteSum data = h.toNat * 256 + l.toNat
    · rw [if_pos x, if_pos (e.2 x)]
    · rw [if_neg x, if_neg (fun y => x (e.1 y))]

end Sys2Proof.Machine
end

