-- ==== Sys2Proof/Laws/PerInstr.lean ====
section
/-! SUPPORT. The round trip through the call words, said for each operation: decoding the encoding of a well-formed
operation gives it back. -/

namespace Sys2Proof.Laws.RoundTrip

open Sys2Proof.Machine

/-- What is said of each operation. -/
def Statement (i : Instr) : Prop := i.wf = true → Sys2Proof.decode (Sys2Proof.encode i) = .ok i

/-- The four bytes of a 32-bit operand join to it again. -/
theorem joinTime_timeBytes (t : Time) :
    joinTime (BitVec.ofNat 8 (t.toNat >>> 24)) (BitVec.ofNat 8 (t.toNat >>> 16)) (BitVec.ofNat 8 (t.toNat >>> 8))
      (BitVec.ofNat 8 t.toNat) = t := by
  have := t.isLt
  apply BitVec.eq_of_toNat_eq
  simp only [joinTime, BitVec.toNat_ofNat, Nat.shiftRight_eq_div_pow]
  omega

theorem causeOf_causeCode (c : Cause) : causeOf (causeCode c) = some c := by cases c <;> rfl
theorem shapeOf_shapeCode (k : Shape) : shapeOf (shapeCode k) = some k := by cases k <;> rfl

/-- A command frame decodes to the row of its pair (R60, R66). -/
theorem decodeCmd_commandFrame (cmd data : Byte) :
    decodeCmd (commandFrame cmd data) = .ok (commandRow cmd data) := by
  show (if [Params.ack0, Params.addr, 0, 0, 0, 0] ≠ [Params.ack0, Params.addr, 0, 0, 0, 0] then
      Except.error DecodeReject.fixedBytes
    else if chk8 (commandHead cmd data) ≠ chk8 (commandHead cmd data) then Except.error DecodeReject.commandChecksum
    else Except.ok (commandRow cmd data)) = _
  rw [if_neg (fun h => h rfl), if_neg (fun h => h rfl)]

/-- A pair with no row of its own is ENCODE's. -/
theorem commandRow_of_not_ownRow {cmd data : Byte} (h : ownRow cmd data = false) :
    commandRow cmd data = .encode cmd data := by
  simp only [ownRow, List.mem_cons, Prod.mk.injEq, List.not_mem_nil, or_false, decide_eq_false_iff_not, not_or] at h
  obtain ⟨h1, h2, h3, h4, h5⟩ := h
  unfold commandRow Params.cmdMode Params.cmdTrigger Params.cmdPower
  rw [if_neg h1, if_neg h2, if_neg h3, if_neg h4, if_neg h5]

theorem setModeQa : Statement .setModeQa := fun _ => rfl

theorem setModeActive : Statement .setModeActive := fun _ => rfl

theorem trigger : Statement .trigger := fun _ => rfl

theorem powerOn : Statement .powerOn := fun _ => rfl

theorem standby : Statement .standby := fun _ => rfl

theorem encode (cmd data : Byte) : Statement (.encode cmd data) := by
  intro h
  have h' : ownRow cmd data = false := by simpa [Instr.wf] using h
  exact (decodeCmd_commandFrame cmd data).trans (congrArg _ (commandRow_of_not_ownRow h'))

theorem ack (body : List Byte) (chk : Byte) : Statement (.ack body chk) := by
  intro h
  simp only [Instr.wf, Bool.and_eq_true, decide_eq_true_eq, bne_iff_ne, ne_eq] at h
  obtain ⟨hl, hh⟩ := h
  match body, hl, hh with
  | [b1, b2, b3, b4, b5, b6, b7], _, hh =>
    have h1 : b1 ≠ Params.replyCode := fun e => hh (by rw [e]; rfl)
    show (if Params.ack0 ≠ Params.ack0 then Except.error DecodeReject.fixedBytes
      else if b1 = Params.replyCode then
        Except.ok (Instr.reply86 (joinBytes b2 b3) (joinBytes b4 b5) (joinBytes b6 b7) chk)
      else Except.ok (Instr.ack [b1, b2, b3, b4, b5, b6, b7] chk)) = _
    rw [if_neg (fun x => x rfl), if_neg h1]

theorem reply86 (pm2_5 pm10_0 pm1_0 : Half) (chk : Byte) : Statement (.reply86 pm2_5 pm10_0 pm1_0 chk) := by
  intro _
  show Except.ok (Instr.reply86 (joinBytes (highByte pm2_5) (lowByte pm2_5)) (joinBytes (highByte pm10_0) (lowByte pm10_0))
    (joinBytes (highByte pm1_0) (lowByte pm1_0)) chk) = _
  simp only [joinBytes_high_low]

theorem meas (data : List Byte) (chk16 : Half) : Statement (.meas data chk16) := by
  intro h
  have hl : data.length = 26 := by simpa [Instr.wf] using h
  have hlen : (measFrame data chk16).length = 32 := by
    rw [measFrame, List.length_append, List.length_append, hl]; rfl
  have hd : (measFrame data chk16).drop 4 = data ++ [highByte chk16, lowByte chk16] := rfl
  have g30 : (measFrame data chk16).getD 30 0 = highByte chk16 := by
    rw [measFrame, List.getD_append_right _ _ _ _ (by show 4 ≤ 30; omega),
      List.getD_append_right _ _ _ _ (by rw [hl]; show 26 ≤ 30 - 4; omega), hl]; rfl
  have g31 : (measFrame data chk16).getD 31 0 = lowByte chk16 := by
    rw [measFrame, List.getD_append_right _ _ _ _ (by show 4 ≤ 31; omega),
      List.getD_append_right _ _ _ _ (by rw [hl]; show 26 ≤ 31 - 4; omega), hl]; rfl
  show decodeMeas (measFrame data chk16) = _
  rw [decodeMeas, if_neg (fun x => x hlen), if_neg (fun x => x rfl), hd, g30, g31, joinBytes_high_low,
    ← hl, List.take_left]

theorem decodeOvf : Statement .decodeOvf := fun _ => rfl

theorem decM0 (b : Byte) : Statement (.decM0 b) := fun _ => rfl

theorem decM1 (b : Byte) : Statement (.decM1 b) := fun _ => rfl

theorem decM2 : Statement .decM2 := fun _ => rfl

theorem decM3 : Statement .decM3 := fun _ => rfl

theorem decM31 : Statement .decM31 := fun _ => rfl

theorem decMb : Statement .decMb := fun _ => rfl

theorem decMx : Statement .decMx := fun _ => rfl

theorem decA0 (b : Byte) : Statement (.decA0 b) := fun _ => rfl

theorem decA8 : Statement .decA8 := fun _ => rfl

theorem decAb : Statement .decAb := fun _ => rfl

theorem decAx : Statement .decAx := fun _ => rfl

theorem init : Statement .init := fun _ => rfl

theorem dutyIdle : Statement .dutyIdle := fun _ => rfl

theorem dutyStab : Statement .dutyStab := fun _ => rfl

theorem dutyWait : Statement .dutyWait := fun _ => rfl

theorem contGate : Statement .contGate := fun _ => rfl

theorem decode (b : Byte) : Statement (.decode b) := fun _ => rfl

theorem cont : Statement .cont := fun _ => rfl

theorem reject (cause : Cause) : Statement (.reject cause) := by
  intro _
  cases cause <;> rfl

theorem complete : Statement .complete := fun _ => rfl

theorem classify (shape : Shape) (bytes : List Byte) : Statement (.classify shape bytes) := by
  intro _
  cases shape <;> rfl

theorem send (cmd data : Byte) : Statement (.send cmd data) := fun _ => rfl

theorem extract : Statement .extract := fun _ => rfl

theorem publish (pm1_0 pm2_5 pm10_0 : Half) : Statement (.publish pm1_0 pm2_5 pm10_0) := by
  intro _
  show Except.ok (Instr.publish (joinBytes (highByte pm1_0) (lowByte pm1_0)) (joinBytes (highByte pm2_5) (lowByte pm2_5))
    (joinBytes (highByte pm10_0) (lowByte pm10_0))) = _
  simp only [joinBytes_high_low]

theorem onComplete : Statement .onComplete := fun _ => rfl

theorem mode : Statement .mode := fun _ => rfl

theorem dutyDone : Statement .dutyDone := fun _ => rfl

theorem tick : Statement .tick := fun _ => rfl

theorem stale : Statement .stale := fun _ => rfl

theorem rxempty : Statement .rxempty := fun _ => rfl

theorem rxloop : Statement .rxloop := fun _ => rfl

theorem drain : Statement .drain := fun _ => rfl

theorem reset (ui : Time) (attPm1_0 attPm2_5 attPm10_0 : Bool) : Statement (.reset ui attPm1_0 attPm2_5 attPm10_0) := by
  intro _
  have e : Sys2Proof.decode (Sys2Proof.encode (.reset ui attPm1_0 attPm2_5 attPm10_0)) =
      .ok (.reset (joinTime (BitVec.ofNat 8 (ui.toNat >>> 24)) (BitVec.ofNat 8 (ui.toNat >>> 16))
        (BitVec.ofNat 8 (ui.toNat >>> 8)) (BitVec.ofNat 8 ui.toNat)) attPm1_0 attPm2_5 attPm10_0) := by
    cases attPm1_0 <;> cases attPm2_5 <;> cases attPm10_0 <;> rfl
  rw [e, joinTime_timeBytes]

end Sys2Proof.Laws.RoundTrip
end

