-- ==== Sys2Proof/Laws/Stale.lean ====
section
/-! SUPPORT. Bytes of `FB` that the frame in progress has not written do not reach a verdict or an output (R11). -/

namespace Sys2Proof.Machine

/-- The reads that decide at index `i` are at `i` or below, so states that agree there decide alike. -/
theorem decodeByte_sameButStale {s t : State} (b : Byte) (h : s.SameButStaleBytes t) (hs : Memory.wf s.fb = true)
    (ht : Memory.wf t.fb = true) (hc : s.cur.toNat ≤ 31) :
    (decodeByte b s).1 = (decodeByte b t).1 ∧ (decodeByte b s).2.SameButStaleBytes (decodeByte b t).2 ∧
      ((decodeByte b s).1 = .complete → ∀ a, a ≤ s.cur.toNat → (decodeByte b s).2.fbAt a = (decodeByte b t).2.fbAt a) := by
  obtain ⟨ht0, hag⟩ := h
  obtain ⟨m, hm⟩ : ∃ m, t.fb = m := ⟨_, rfl⟩
  rw [hm] at ht0 ht
  subst ht0
  have hag' : ∀ a, a ≤ s.cur.toNat →
      (s.storeFb s.cur.toNat b).fbAt a = (({ s with fb := m } : State).storeFb s.cur.toNat b).fbAt a := by
    intro a ha
    by_cases e : a = s.cur.toNat
    · subst e; rw [State.storeFb_fbAt_same hs, State.storeFb_fbAt_same ht]
    · rw [State.storeFb_fbAt_other e, State.storeFb_fbAt_other e]; exact hag a (by omega)
  rw [decodeByte_below b s (by omega), decodeByte_below b ({ s with fb := m } : State) (by show s.cur.toNat < 64; omega)]
  show (if s.pend = true then _ else _ : Verdict × State).1 = (if s.pend = true then _ else _ : Verdict × State).1 ∧ _
  have hcur : ({ s with fb := m } : State).cur = s.cur := rfl
  have hpend : ({ s with fb := m } : State).pend = s.pend := rfl
  rw [hcur, hpend]
  generalize hu : s.storeFb s.cur.toNat b = u at hag'
  generalize hv : ({ s with fb := m } : State).storeFb s.cur.toNat b = v at hag'
  have huv : ({ u with fb := v.fb } : State) = v := by rw [← hu, ← hv]; rfl
  have huc : u.cur = s.cur := by rw [← hu]; rfl
  obtain ⟨n, hn⟩ : ∃ n, v.fb = n := ⟨_, rfl⟩
  rw [hn] at huv
  subst huv
  have cont : ∀ {r r' : Verdict × State}, r = continueFrame u → r' = continueFrame ({ u with fb := n } : State) →
      s.cur.toNat ≤ 30 →
      r.1 = r'.1 ∧ r.2.SameButStaleBytes r'.2 ∧ (r.1 = .complete → ∀ a, a ≤ s.cur.toNat → r.2.fbAt a = r'.2.fbAt a) := by
    rintro r r' rfl rfl h30
    refine ⟨rfl, ⟨rfl, ?_⟩, fun h => by cases h⟩
    intro a ha
    have e1 : (u.cur + 1).toNat = s.cur.toNat + 1 := by rw [huc, cur_add_one (by omega)]
    have : a < (u.cur + 1).toNat := ha
    exact hag' a (by omega)
  have rej : ∀ (c : Cause), ((reject c u).1 = (reject c ({ u with fb := n } : State)).1) ∧
      (reject c u).2.SameButStaleBytes (reject c ({ u with fb := n } : State)).2 ∧
      ((reject c u).1 = .complete →
        ∀ a, a ≤ s.cur.toNat → (reject c u).2.fbAt a = (reject c ({ u with fb := n } : State)).2.fbAt a) := by
    intro c
    rw [reject_eq, reject_eq]
    exact ⟨rfl, ⟨rfl, fun a ha => absurd ha (Nat.not_lt_zero _)⟩, fun h => by cases h⟩
  have comp : ((completeFrame u).1 = (completeFrame ({ u with fb := n } : State)).1) ∧
      (completeFrame u).2.SameButStaleBytes (completeFrame ({ u with fb := n } : State)).2 ∧
      ((completeFrame u).1 = .complete →
        ∀ a, a ≤ s.cur.toNat → (completeFrame u).2.fbAt a = (completeFrame ({ u with fb := n } : State)).2.fbAt a) :=
    ⟨rfl, ⟨rfl, fun a ha => hag' a (Nat.le_of_lt (by rw [← huc]; exact ha))⟩, fun _ a ha => hag' a ha⟩
  by_cases hp : s.pend = true
  · rw [if_pos hp, if_pos hp]
    simp only [decodeAckAt, decA0, decAb, decA8, decAx]
    split
    · split
      · exact cont rfl rfl (by omega)
      · exact rej _
    · split
      · exact cont rfl rfl (by omega)
      · split
        · rename_i h8
          have e : u.ackSumOk = ({ u with fb := n } : State).ackSumOk := by
            rw [Bool.eq_iff_iff, ackSumOk_iff, ackSumOk_iff,
              show frameBytes ({ u with fb := n } : State) 8 = frameBytes u 8 from
                List.map_congr_left fun a ha => (hag' a (by have := List.mem_range.1 ha; omega)).symm,
              hag' 8 (by omega)]
          rw [← e]
          split
          · exact comp
          · exact rej _
        · exact rej _
  · rw [if_neg hp, if_neg hp]
    simp only [decodeMeasAt, decM0, decM1, decM2, decM3, decMb, decM31, decMx]
    split
    · split
      · exact cont rfl rfl (by omega)
      · exact rej _
    split
    · split
      · exact cont rfl rfl (by omega)
      · exact rej _
    split
    · exact cont rfl rfl (by omega)
    split
    · rename_i h3
      have e : u.lengthOk = ({ u with fb := n } : State).lengthOk := by
        rw [Bool.eq_iff_iff, lengthOk_iff, lengthOk_iff, hag' 2 (by omega), hag' 3 (by omega)]
      rw [← e]
      split
      · exact cont rfl rfl (by omega)
      · exact rej _
    split
    · exact cont rfl rfl (by omega)
    split
    · rename_i h31
      have e : u.measSumOk = ({ u with fb := n } : State).measSumOk := by
        rw [Bool.eq_iff_iff, measSumOk_iff, measSumOk_iff,
          show frameBytes ({ u with fb := n } : State) 30 = frameBytes u 30 from
            List.map_congr_left fun a ha => (hag' a (by have := List.mem_range.1 ha; omega)).symm,
          hag' 30 (by omega), hag' 31 (by omega)]
      rw [← e]
      split
      · exact comp
      · exact rej _
    · exact rej _

/-- DECODE keeps the canonical form and the cursor's bound (R13). -/
theorem decodeByte_keeps_bounds (b : Byte) (s : State) (hw : Memory.wf s.fb = true) (hc : s.cur.toNat ≤ 31) :
    Memory.wf (decodeByte b s).2.fb = true ∧ (decodeByte b s).2.cur.toNat ≤ 31 := by
  have hst : Memory.wf (stored b s).fb = true := Memory.wf_write b hw (by show s.cur.toNat < 64; omega)
  rcases decodeByte_cases b s with ⟨h, e⟩ | ⟨h, ⟨e, h30⟩ | ⟨c, -, e⟩ | ⟨e, -⟩⟩ <;> rw [e]
  · omega
  · exact ⟨hst, by show (s.cur + 1).toNat ≤ 31; rw [cur_add_one (by omega)]; omega⟩
  · rw [reject_eq]; exact ⟨hst, Nat.zero_le _⟩
  · exact ⟨hst, hc⟩

/-- The batch scan does not see stale bytes. -/
theorem classifyScan_sameButStale {l : List Byte} {s t : State} (h : s.SameButStaleBytes t)
    (hs : Memory.wf s.fb = true) (ht : Memory.wf t.fb = true) (hc : s.cur.toNat ≤ 31) :
    classifyScan l s = classifyScan l t := by
  induction l generalizing s t with
  | nil => rfl
  | cons b r ih =>
    have hct : t.cur.toNat ≤ 31 := by rw [← h.1]; exact hc
    obtain ⟨e1, e2, -⟩ := decodeByte_sameButStale b h hs ht hc
    obtain ⟨w1, c1⟩ := decodeByte_keeps_bounds b s hs hc
    obtain ⟨w2, -⟩ := decodeByte_keeps_bounds b t ht hct
    rcases hds : decodeByte b s with ⟨v, s'⟩
    rcases hdt : decodeByte b t with ⟨v', t'⟩
    rw [hds, hdt] at e1 e2
    rw [hds] at w1 c1
    rw [hdt] at w2
    have e1 : v = v' := e1
    subst e1
    simp only [classifyScan, hds, hdt]
    cases v
    · exact congrArg _ (ih e2 w1 w2 c1)
    · exact congrArg _ (ih e2 w1 w2 c1)
    · refine congrArg _ (ih (s := s'.setCur 0) (t := t'.setCur 0) ⟨?_, fun a ha => absurd ha (Nat.not_lt_zero _)⟩ w1 w2
        (Nat.zero_le _))
      exact congrArg (fun u : State => u.setCur 0) e2.1

/-! ### What DECODE reads -/

/-- The state with nothing kept but what DECODE reads: `FB`, `CUR`, `PEND`. -/
def State.bare (s : State) : State := { State.reset with fb := s.fb, cur := s.cur, pend := s.pend }

theorem decodeByte_bare (b : Byte) (s : State) :
    (decodeByte b s.bare).1 = (decodeByte b s).1 ∧ (decodeByte b s.bare).2.bare = (decodeByte b s).2.bare := by
  have rej : ∀ (c : Cause) (u : State), (reject c u.bare).1 = (reject c u).1 ∧
      (reject c u.bare).2.bare = (reject c u).2.bare := by
    intro c u; rw [reject_eq, reject_eq]; exact ⟨rfl, rfl⟩
  by_cases h : s.cur.toNat < 64
  · rw [decodeByte_below b s h, decodeByte_below b s.bare h]
    show (if s.pend = true then decodeAckAt s.cur.toNat b (s.storeFb s.cur.toNat b).bare
      else decodeMeasAt s.cur.toNat b (s.storeFb s.cur.toNat b).bare : Verdict × State).1 = _ ∧
      (if s.pend = true then decodeAckAt s.cur.toNat b (s.storeFb s.cur.toNat b).bare
      else decodeMeasAt s.cur.toNat b (s.storeFb s.cur.toNat b).bare : Verdict × State).2.bare = _
    generalize s.storeFb s.cur.toNat b = u
    have h3 : u.bare.lengthOk = u.lengthOk := rfl
    have h31 : u.bare.measSumOk = u.measSumOk := rfl
    have h8 : u.bare.ackSumOk = u.ackSumOk := rfl
    by_cases hp : s.pend = true
    · rw [if_pos hp, if_pos hp]
      simp only [decodeAckAt, decA0, decAb, decA8, decAx, h8]
      repeat' split
      all_goals first
        | exact rej _ u
        | exact ⟨rfl, rfl⟩
    · rw [if_neg hp, if_neg hp]
      simp only [decodeMeasAt, decM0, decM1, decM2, decM3, decMb, decM31, decMx, h3, h31]
      repeat' split
      all_goals first
        | exact rej _ u
        | exact ⟨rfl, rfl⟩
  · rw [decodeByte, decodeByte, if_pos (by show 64 ≤ s.cur.toNat; omega), if_pos (by show 64 ≤ s.cur.toNat; omega)]
    exact rej _ s

/-- The scan reads nothing else. -/
theorem classifyScan_bare {l : List Byte} {s t : State} (h : s.bare = t.bare) :
    classifyScan l s = classifyScan l t := by
  induction l generalizing s t with
  | nil => rfl
  | cons b r ih =>
    obtain ⟨e1, e2⟩ := decodeByte_bare b s
    obtain ⟨e3, e4⟩ := decodeByte_bare b t
    rw [h] at e1 e2
    have e1 := e1.symm.trans e3
    have e2 := e2.symm.trans e4
    rcases hds : decodeByte b s with ⟨v, s'⟩
    rcases hdt : decodeByte b t with ⟨v', t'⟩
    rw [hds, hdt] at e1 e2
    have e1 : v = v' := e1
    subst e1
    simp only [classifyScan, hds, hdt]
    cases v
    · exact congrArg _ (ih e2)
    · exact congrArg _ (ih e2)
    · exact congrArg _ (ih (congrArg (fun u : State => ({ u with cur := 0 } : State)) e2))

/-- CLASSIFY answers alike in every canonical state. -/
theorem classify_canonical (k : Shape) (l : List Byte) {s t : State} (hs : Memory.wf s.fb = true)
    (ht : Memory.wf t.fb = true) : classify k l s = classify k l t := by
  unfold classify
  rw [classifyScan_bare (s := (s.setCur 0).setPend (k = .ack))
    (t := { t with fb := s.fb, cur := 0, pend := decide (k = .ack) }) rfl]
  exact classifyScan_sameButStale ⟨rfl, fun a ha => absurd ha (Nat.not_lt_zero _)⟩ hs ht (Nat.zero_le _)

end Sys2Proof.Machine
end

