-- ==== Sys2Proof/Laws/Step.lean ====
section
/-! SUPPORT. What a step of the environment's own moves can do, and what TICK never writes. -/

namespace Sys2Proof.Machine

/-- TICK leaves the script, the configuration and the time alone, and sets `INIT` (R18). -/
theorem tick_frame (s : State) :
    (tick s).script = s.script ∧ (tick s).ui = s.ui ∧ (tick s).now = s.now ∧ (tick s).init = true := by
  have h0 : (initOp s).script = s.script ∧ (initOp s).ui = s.ui ∧ (initOp s).now = s.now ∧ (initOp s).init = true := by
    rw [initOp_eq]; exact ⟨rfl, rfl, rfl, rfl⟩
  have hr : ∀ t : State, (t.script = s.script ∧ t.ui = s.ui ∧ t.now = s.now ∧ t.init = true) →
      ((readBytes t).script = s.script ∧ (readBytes t).ui = s.ui ∧ (readBytes t).now = s.now ∧
        (readBytes t).init = true) := by
    intro t ht
    refine readBytes_keeps (P := fun t => t.script = s.script ∧ t.ui = s.ui ∧ t.now = s.now ∧ t.init = true)
      (fun t h => ?_) (fun _ _ h => h) (fun _ _ _ h => h) (fun b t h => ?_) t ht
    · rw [stale_eq]; split <;> exact h
    · obtain ⟨-, -, h3, h4, -, -, -, -, h9, -, h11, -⟩ := receiveByte_frame b t
      rw [h11, h4, h9, h3]; exact h
  rcases tick_cases s with ⟨-, -, e⟩ | ⟨-, -, e⟩ | ⟨-, -, e⟩ | ⟨-, -, e⟩ | ⟨-, -, e⟩ <;> rw [e]
  · rw [dutyIdle_eq]; split <;> exact h0
  · rw [dutyStab_eq]; split <;> exact h0
  · exact hr _ h0
  · exact h0
  · exact hr _ h0

/-- A step under moves of R252 only is a TICK at some time, or changes the inputs `RXQ` and `RX_ERR` alone. -/
theorem step_cases {s t : State} (hm : s.onlyMoves = true) (h : step s = .next t) :
    ∃ rest, rest.all Stimulus.isMove = true ∧
      ((∃ n, t = (tick { s with script := rest, now := n }).answer .nothing) ∨
        ∃ q e, t = { s with script := rest, rxq := q, rxErr := e }) := by
  simp only [step, runLine] at h
  split at h
  · exact ⟨s.script, hm, Or.inl ⟨s.now, (Host.Outcome.next.inj h).symm⟩⟩
  all_goals
    rename_i hs
    rw [State.onlyMoves, hs] at hm
  · exact ⟨_, by simpa [Stimulus.isMove] using hm, Or.inr ⟨_, s.rxErr, (Host.Outcome.next.inj h).symm⟩⟩
  · exact ⟨_, by simpa [Stimulus.isMove] using hm, Or.inr ⟨s.rxq, _, (Host.Outcome.next.inj h).symm⟩⟩
  · exact ⟨_, by simpa [Stimulus.isMove] using hm, Or.inl ⟨_, (Host.Outcome.next.inj h).symm⟩⟩
  · simp [Stimulus.isMove] at hm

end Sys2Proof.Machine
end

