-- ==== Sys2Proof/Tests/Slice0.lean ====
section
/-! SUPPORT. Tests: WellFormed's checks, words written out from the spec's encodings, one step of each operation with
results from the spec's own examples (the rule is named at each), and for each statement with hypotheses a state and
operands that meet them all. -/

namespace Sys2Proof.Tests

open Sys2Proof.Machine

/-- A value read off the state an outcome goes on with. -/
def after {α : Type} (r : Host.Outcome State Fault Refusal) (f : State → α) : Option α :=
  match r with
  | .next s => some (f s)
  | _ => none

/-- What a call word decodes to. -/
def reads (w : List Byte) : Option Instr :=
  match decode w with
  | .ok i => some i
  | .error _ => none

/-- Why a call word is refused. -/
def refuses (w : List Byte) : Option DecodeReject :=
  match decode w with
  | .ok _ => none
  | .error why => some why

/-- The state after reset with `UI` and all three outputs attached. -/
def block (ui : Time) : State := State.resetWith ui true true true

/-- Bytes laid in `FB` from index 0. -/
def withFrame (s : State) : Nat → List Byte → State
  | _, [] => s
  | i, b :: rest => withFrame (s.storeFb i b) (i + 1) rest

/-- `Waiting` of cycling mode after a TRIGGER, at the time of the example of R153. -/
def waiting : State :=
  { block 60000 with init := true, ds := .waiting, pend := true, warn := true, now := 60150, fpt := 15000 }

/-- The reply of the example of R110 and R153. -/
def reply17 : List Byte := [0xFF, 0x86, 0x00, 0x23, 0x00, 0x2D, 0x00, 0x11, 0x19]

/-- The measurement frame of the example of R106. -/
def measZero : List Byte := [0x42, 0x4D, 0x00, 0x1C] ++ List.replicate 26 0 ++ [0x00, 0xAB]

/-! ### WellFormed: an ill-formed term for each check -/

theorem test_wf_encode_own_row :
    (Instr.encode 0x78 0x41).wf = false ∧ (Instr.encode 0x78 0x40).wf = false ∧ (Instr.encode 0x86 0x00).wf = false ∧
      (Instr.encode 0xA7 0x00).wf = false ∧ (Instr.encode 0xA7 0x01).wf = false ∧
      (Instr.encode 0xA7 0x02).wf = true := by decide
theorem test_wf_ack_length :
    (Instr.ack [1, 2, 3, 4, 5, 6] 0).wf = false ∧ (Instr.ack [1, 2, 3, 4, 5, 6, 7, 8] 0).wf = false ∧
      (Instr.ack [1, 2, 3, 4, 5, 6, 7] 0).wf = true := by decide
theorem test_wf_ack_reply_code : (Instr.ack [0x86, 2, 3, 4, 5, 6, 7] 0).wf = false := by decide
theorem test_wf_meas_length :
    (Instr.meas (List.replicate 25 0) 0).wf = false ∧ (Instr.meas (List.replicate 27 0) 0).wf = false ∧
      (Instr.meas (List.replicate 26 0) 0).wf = true := by decide

/-! ### Decoding: a word for each constructor, from R60 to R62 and R66 (format bytes and CALL numbers: log 3) -/

theorem test_decode_commands :
    reads [0, 0xFF, 0x01, 0x78, 0x41, 0, 0, 0, 0, 0x46] = some .setModeQa ∧
    reads [0, 0xFF, 0x01, 0x78, 0x40, 0, 0, 0, 0, 0x47] = some .setModeActive ∧
    reads [0, 0xFF, 0x01, 0x86, 0x00, 0, 0, 0, 0, 0x79] = some .trigger ∧
    reads [0, 0xFF, 0x01, 0xA7, 0x00, 0, 0, 0, 0, 0x58] = some .powerOn ∧
    reads [0, 0xFF, 0x01, 0xA7, 0x01, 0, 0, 0, 0, 0x57] = some .standby ∧
    reads [0, 0xFF, 0x01, 0xFF, 0x00, 0, 0, 0, 0, 0x00] = some (.encode 0xFF 0x00) ∧
    reads [0, 0xFF, 0x01, 0xFF, 0xFF, 0, 0, 0, 0, 0x01] = some (.encode 0xFF 0xFF) := by decide
theorem test_decode_inbound :
    reads [1, 0xFF, 0x01, 0x86, 0x00, 0, 0, 0, 0, 0x79] = some (.ack [0x01, 0x86, 0, 0, 0, 0, 0] 0x79) ∧
    reads [1, 0xFF, 0x86, 0x01, 0x23, 0x04, 0x56, 0x00, 0xAB, 0x51] = some (.reply86 0x0123 0x0456 0x00AB 0x51) ∧
    reads (2 :: measZero) = some (.meas (List.replicate 26 0) 0x00AB) := by decide
theorem test_decode_selections :
    reads [3, 0x40] = some .decodeOvf ∧ reads [3, 0xC0] = some .decodeOvf ∧
    reads [3, 0x00, 0x42] = some (.decM0 0x42) ∧ reads [3, 0x01, 0x4D] = some (.decM1 0x4D) ∧
    reads [3, 0x02] = some .decM2 ∧ reads [3, 0x03] = some .decM3 ∧ reads [3, 0x1F] = some .decM31 ∧
    reads [3, 0x04] = some .decMb ∧ reads [3, 0x1E] = some .decMb ∧
    reads [3, 0x20] = some .decMx ∧ reads [3, 0x3F] = some .decMx ∧
    reads [3, 0x80, 0xFF] = some (.decA0 0xFF) ∧ reads [3, 0x88] = some .decA8 ∧
    reads [3, 0x81] = some .decAb ∧ reads [3, 0x87] = some .decAb ∧
    reads [3, 0x89] = some .decAx ∧ reads [3, 0xBF] = some .decAx := by decide
theorem test_decode_tick_selections :
    reads [4, 0x0] = some .init ∧ reads [4, 0x4] = some .dutyIdle ∧ reads [4, 0xD] = some .dutyStab ∧
    reads [4, 0x6] = some .dutyWait ∧ reads [4, 0x8] = some .contGate := by decide
theorem test_decode_calls :
    reads [5, 0, 0x42] = some (.decode 0x42) ∧ reads [5, 1] = some .cont ∧
    reads [5, 2, 2] = some (.reject .checksum) ∧ reads [5, 3] = some .complete ∧
    reads [5, 4, 1, 0xFF, 0x86] = some (.classify .ack [0xFF, 0x86]) ∧
    reads [5, 5, 0xA7, 0x01] = some (.send 0xA7 0x01) ∧ reads [5, 6] = some .extract ∧
    reads [5, 7, 0, 0xAB, 0x01, 0x23, 0x04, 0x56] = some (.publish 0x00AB 0x0123 0x0456) ∧
    reads [5, 8] = some .onComplete ∧ reads [5, 9] = some .mode ∧ reads [5, 10] = some .dutyDone ∧
    reads [5, 11] = some .tick ∧ reads [5, 12] = some .stale ∧ reads [5, 13] = some .rxempty ∧
    reads [5, 14] = some .rxloop ∧ reads [5, 15] = some .drain ∧
    reads [5, 16, 0x00, 0x00, 0xEA, 0x60, 1, 0, 1] = some (.reset 60000 true false true) := by decide
theorem test_decode_rejects :
    refuses [] = some .emptyWord ∧ refuses [6] = some .noFormat ∧ refuses [0, 0xFF] = some .wrongLength ∧
    refuses [0, 0xFF, 0x02, 0x78, 0x41, 0, 0, 0, 0, 0x46] = some .fixedBytes ∧
    refuses [0, 0xFF, 0x01, 0x78, 0x41, 0, 0, 0, 0, 0x47] = some .commandChecksum ∧
    refuses [3, 0x41] = some .noSelection ∧ refuses [4, 0x7] = some .noSelection ∧
    refuses [5, 17] = some .noOperation ∧ refuses [5, 2, 4] = some .noOperand := by decide
/-- The host's numbering: byte 0 of a frame in the highest bits, as R60 and R66 write it. -/
theorem test_table_words :
    decodeTableWord 72 0xFF01A7010000000057 = some .standby ∧
    decodeTableWord 72 0xFF8601230456_00AB_51 = some (.reply86 0x0123 0x0456 0x00AB 0x51) ∧
    decodeTableWord 8 0x88 = some .decA8 ∧ decodeTableWord 4 0x5 = some .dutyStab := by decide

/-! ### One step of each operation; the rule whose example or table is the source is named -/

theorem test_set_mode_qa : after (exec .setModeQa (block 60000)) (·.txq) =       -- R132
    some [0xFF, 0x01, 0x78, 0x41, 0, 0, 0, 0, 0x46] := by decide
theorem test_set_mode_active : after (exec .setModeActive (block 60000)) (·.txq) =  -- R133
    some [0xFF, 0x01, 0x78, 0x40, 0, 0, 0, 0, 0x47] := by decide
theorem test_trigger : after (exec .trigger (block 60000)) (fun t => (t.txq, t.pend)) =  -- R134
    some ([0xFF, 0x01, 0x86, 0x00, 0, 0, 0, 0, 0x79], true) := by decide
theorem test_power_on : after (exec .powerOn (block 60000)) (·.txq) =            -- R135
    some [0xFF, 0x01, 0xA7, 0x00, 0, 0, 0, 0, 0x58] := by decide
theorem test_standby : after (exec .standby (block 60000)) (·.txq) =             -- R136
    some [0xFF, 0x01, 0xA7, 0x01, 0, 0, 0, 0, 0x57] := by decide
theorem test_encode : after (exec (.encode 0xFF 0x00) (block 60000)) (fun t => (t.ans, t.txq)) =  -- R130
    some (.frame [0xFF, 0x01, 0xFF, 0x00, 0, 0, 0, 0, 0x00], []) := by decide
theorem test_send : after (exec (.send 0xA7 0x01) waiting) (fun t => (t.txq, t.pend)) =  -- R131
    some ([0xFF, 0x01, 0xA7, 0x01, 0, 0, 0, 0, 0x57], true) := by decide
theorem test_ack_not_published :                                                  -- R151
    after (exec (.ack [0x01, 0x86, 0, 0, 0, 0, 0] 0x79) waiting) (fun t => (t.pubq, t.lmt, t.pend, t.ds)) =
      some ([], 60150, false, .idle) := by decide
theorem test_reply_published :                                                    -- R153
    after (exec (.reply86 0x23 0x2D 0x11 0x19) waiting) (fun t => (t.pubq, t.lmt, t.txq, t.warn)) =
      some ([(.pm1_0, 17), (.pm2_5, 35), (.pm10_0, 45)], 60150, [0xFF, 0x01, 0xA7, 0x01, 0, 0, 0, 0, 0x57], false) := by
  decide
set_option maxRecDepth 4000 in
theorem test_meas_completes :                                                     -- R106, R154
    after (exec (.meas (List.replicate 26 0) 0x00AB) { block 10000 with now := 10000 }) (fun t => (t.evq, t.pubq, t.lmt)) =
      some ([.ok], [], 10000) := by decide
theorem test_decode_ovf : after (exec .decodeOvf { block 60000 with cur := 64 }) (fun t => (t.cur, t.evq, t.fb)) =  -- R100
    some (0, [.e5], []) := by decide
theorem test_dec_m0 :                                                             -- R101
    after (exec (.decM0 0xFF) (block 60000)) (fun t => (t.ans, t.cur, t.warn)) = some (.verdict .reject, 0, false) ∧
    after (exec (.decM0 0x42) (block 60000)) (fun t => (t.ans, t.cur)) = some (.verdict .cont, 1) := by decide
theorem test_dec_m1 :                                                             -- R102
    after (exec (.decM1 0x4D) { block 60000 with cur := 1 }) (fun t => (t.ans, t.cur)) = some (.verdict .cont, 2) ∧
    after (exec (.decM1 0x42) { block 60000 with cur := 1 }) (fun t => (t.ans, t.cur)) = some (.verdict .reject, 0) := by
  decide
theorem test_dec_m2 :                                                             -- R103
    after (exec .decM2 { withFrame (block 60000) 0 [0x42, 0x4D, 0x01] with cur := 2 }) (fun t => (t.ans, t.cur)) =
      some (.verdict .cont, 3) := by decide
theorem test_dec_m3 :                                                             -- R104
    after (exec .decM3 { withFrame (block 60000) 0 [0x42, 0x4D, 0x00, 0x1C] with cur := 3 }) (fun t => (t.ans, t.cur)) =
      some (.verdict .cont, 4) ∧
    after (exec .decM3 { withFrame (block 60000) 0 [0x42, 0x4D, 0x00, 0x14] with cur := 3 })
      (fun t => (t.ans, t.cur, t.warn)) = some (.verdict .reject, 0, true) := by decide
theorem test_dec_mb : after (exec .decMb { block 60000 with cur := 17 }) (fun t => (t.ans, t.cur)) =  -- R105
    some (.verdict .cont, 18) := by decide
set_option maxRecDepth 4000 in
theorem test_dec_m31 :                                                            -- R106
    after (exec .decM31 { withFrame (block 60000) 0 measZero with cur := 31 }) (fun t => (t.ans, t.cur)) =
      some (.verdict .complete, 31) ∧
    after (exec .decM31 { (withFrame (block 60000) 0 measZero).storeFb 30 0x01 with cur := 31 })
      (fun t => (t.ans, t.evq, t.warn)) = some (.verdict .reject, [.e3], true) := by decide
theorem test_dec_mx : after (exec .decMx { block 60000 with cur := 40 }) (fun t => (t.ans, t.cur)) =  -- R107
    some (.verdict .reject, 0) := by decide
theorem test_dec_a0 :                                                             -- R108
    after (exec (.decA0 0xFF) waiting) (fun t => (t.ans, t.cur)) = some (.verdict .cont, 1) ∧
    after (exec (.decA0 0x42) waiting) (fun t => (t.ans, t.pend)) = some (.verdict .reject, true) := by decide
theorem test_dec_ab : after (exec .decAb { waiting with cur := 1 }) (fun t => (t.ans, t.cur)) =  -- R109
    some (.verdict .cont, 2) := by decide
theorem test_dec_a8 :                                                             -- R110
    after (exec .decA8 { withFrame waiting 0 reply17 with cur := 8 }) (fun t => (t.ans, t.cur)) =
      some (.verdict .complete, 8) ∧
    after (exec .decA8 { (withFrame waiting 0 reply17).storeFb 3 0x24 with cur := 8 }) (fun t => (t.ans, t.evq)) =
      some (.verdict .reject, [.e3]) := by decide
theorem test_dec_ax : after (exec .decAx { waiting with cur := 20 }) (fun t => (t.ans, t.cur)) =  -- R111
    some (.verdict .reject, 0) := by decide
theorem test_decode_stores : after (exec (.decode 0x42) (block 60000)) (fun t => (t.fb, t.ans, t.cur)) =  -- R100
    some ([(0, 0x42)], .verdict .cont, 1) := by decide
theorem test_decode_rejects_silently :                                            -- R113
    after (exec (.decode 0x00) { block 60000 with cur := 1 }) (fun t => (t.cur, t.evq, t.ans)) =
      some (0, [.e1], .verdict .reject) := by decide
theorem test_continue : after (exec .cont { waiting with cur := 7 }) (·.cur) = some 8 := by decide  -- R112
theorem test_reject : after (exec (.reject .length) { block 60000 with cur := 3 }) (fun t => (t.cur, t.warn, t.evq)) =
    some (0, true, [.e2]) := by decide                                            -- R113, R200
theorem test_complete : after (exec .complete { waiting with cur := 8 }) (fun t => (t.ans, t.cur)) =  -- R114
    some (.verdict .complete, 8) := by decide
theorem test_classify : after (exec (.classify .ack (0x00 :: reply17)) (block 60000)) (·.ans) =  -- R116, R115
    some (.verdicts (.reject :: (List.replicate 8 .cont ++ [.complete]))) := by decide
theorem test_extract :                                                            -- R150
    after (exec .extract (withFrame waiting 0 [0xFF, 0x86, 0x01, 0x23, 0x04, 0x56, 0x00, 0xAB, 0x51])) (·.ans) =
      some (.readings 171 291 1110) := by decide
theorem test_publish :                                                            -- R151
    after (exec (.publish 171 291 1110) (withFrame waiting 0 [0xFF, 0x86])) (·.pubq) =
      some [(.pm1_0, 171), (.pm2_5, 291), (.pm10_0, 1110)] ∧
    after (exec (.publish 171 291 1110) (withFrame (block 60000) 0 [0xFF, 0x86])) (·.pubq) = some [] := by decide
theorem test_on_complete :                                                        -- R153
    after (exec .onComplete { withFrame waiting 0 reply17 with cur := 8 })
      (fun t => (t.pubq, t.lmt, t.pend, t.cur, t.ds)) =
      some ([(.pm1_0, 17), (.pm2_5, 35), (.pm10_0, 45)], 60150, false, 0, .idle) := by decide
theorem test_mode :                                                               -- R160, R29
    after (exec .mode (block 45000)) (·.ans) = some (.cycling false) ∧
    after (exec .mode (block 45001)) (·.ans) = some (.cycling true) := by decide
theorem test_init :                                                               -- R161
    after (exec .init (block 60000)) (fun t => (t.txq, t.init)) = some ([0xFF, 0x01, 0x78, 0x41, 0, 0, 0, 0, 0x46], true) ∧
    after (exec .init (block 10000)) (·.txq) = some [0xFF, 0x01, 0x78, 0x40, 0, 0, 0, 0, 0x47] := by decide
theorem test_duty_idle :                                                          -- R162
    after (exec .dutyIdle { block 60000 with now := 14999 }) (·.ds) = some .idle ∧
    after (exec .dutyIdle { block 60000 with now := 15000 }) (fun t => (t.txq, t.fpt, t.ds)) =
      some ([0xFF, 0x01, 0xA7, 0x00, 0, 0, 0, 0, 0x58], 15000, .stabilising) := by decide
theorem test_duty_stab :                                                          -- R163
    after (exec .dutyStab { block 60000 with fpt := 15000, now := 59999, ds := .stabilising }) (·.ds) = some .stabilising ∧
    after (exec .dutyStab { block 60000 with fpt := 15000, now := 60000, ds := .stabilising, rxq := [1] })
      (fun t => (t.rxq, t.txq, t.pend, t.ds)) =
      some ([], [0xFF, 0x01, 0x86, 0x00, 0, 0, 0, 0, 0x79], true, .waiting) := by decide
theorem test_duty_wait : after (exec .dutyWait waiting) (·.ans) = some .tickGoesOn := by decide  -- R164
theorem test_duty_done : after (exec .dutyDone waiting) (fun t => (t.txq, t.ds, t.warn)) =  -- R165
    some ([0xFF, 0x01, 0xA7, 0x01, 0, 0, 0, 0, 0x57], .idle, false) := by decide
theorem test_cont_gate :                                                          -- R166
    after (exec .contGate { block 10000 with now := 9999 }) (·.ans) = some .tickEnds ∧
    after (exec .contGate { block 10000 with now := 10000 }) (·.ans) = some .tickGoesOn := by decide
theorem test_tick_first : after (exec .tick (block 60000)) (fun t => (t.txq, t.ds, t.init)) =  -- R180
    some ([0xFF, 0x01, 0x78, 0x41, 0, 0, 0, 0, 0x46], .idle, true) := by decide
theorem test_tick_reads_the_rest :                                                -- R183
    after (exec .tick { withFrame waiting 0 [0xFF, 0x86, 0x00, 0x23] with
        cur := 4, lbt := 60100, rxq := [0x00, 0x2D, 0x00, 0x11, 0x19] })
      (fun t => (t.evq, t.lbt, t.rxq, t.cur)) = some ([.ok], 60150, [], 0) := by decide
theorem test_stale :                                                              -- R181
    after (exec .stale { waiting with lbt := 60020, cur := 5, now := 60520 }) (fun t => (t.cur, t.evq)) = some (5, []) ∧
    after (exec .stale { waiting with lbt := 60020, cur := 5, now := 60521 }) (fun t => (t.cur, t.evq, t.pend)) =
      some (0, [.e4], true) := by decide
theorem test_rxempty : after (exec .rxempty waiting) (·.ans) = some .tickEnds := by decide  -- R182
theorem test_rxloop :                                                             -- R183
    after (exec .rxloop { waiting with rxq := reply17 ++ [0x42] }) (fun t => (t.rxq, t.lbt, t.cur, t.pubq.length)) =
      some ([], 60150, 1, 3) := by decide
/-- R26, R246, D21: a loop whose first read fails takes no byte, so `LBT` stays and the queue with it. -/
theorem test_first_read_fails :
    after (exec .rxloop { waiting with rxq := [0xFF], rxErr := some 0, cur := 3, lbt := 60000 })
      (fun t => (t.lbt, t.rxq, t.cur, t.rxErr)) = some (60000, [0xFF], 3, none) := by decide
theorem test_drain :                                                              -- R184, R185
    after (exec .drain { waiting with rxq := reply17, cur := 5 }) (fun t => (t.rxq, t.cur, t.lbt)) = some ([], 5, 0) ∧
    after (exec .drain { waiting with rxq := [1, 2, 3], rxErr := some 1 }) (fun t => (t.rxq, t.rxErr)) =
      some ([2, 3], none) := by decide
theorem test_reset :                                                              -- R231
    after (exec (.reset 60000 true true true) { waiting with lmt := 7, lbt := 9, rxq := [1] })
      (fun t => (t.cyc, t.ds, [t.lmt, t.fpt, t.lbt], t.rxq)) = some (true, .idle, [0, 0, 0], []) := by decide

/-! ### A step, and how a placed word runs -/

theorem test_step_placed_word : after (step (State.reset.withFetchWord 72 0xFF01A7010000000057)) (·.txq) =
    some [0xFF, 0x01, 0xA7, 0x01, 0, 0, 0, 0, 0x57] := by decide
theorem test_step_bad_call : step { block 60000 with script := [.call [6]] } =
    .refused (.undecodable .noFormat) := rfl

/-! ### Each statement's hypotheses are met: boundary values and every clause -/

/-- `waiting` reached the fields a run gives it. -/
theorem waiting_inv : waiting.Inv :=
  ⟨by decide, by decide, by decide, by decide, by decide, by decide⟩

/-- Continuous mode, first tick done. -/
def continuous : State := { block 10000 with init := true, txq := Command.bytes .modeActive, now := 10000 }

theorem continuous_inv : continuous.Inv :=
  ⟨by decide, by decide, by decide, by decide, by decide, by decide⟩

theorem waiting_ready : ReadyFor true waiting := ⟨by decide, rfl, rfl, rfl, rfl⟩
theorem continuous_ready : ReadyFor false continuous := ⟨by decide, rfl, rfl, rfl, rfl⟩

theorem test_witness_DecodeOfEncodeIsIdentity :
    (Instr.encode 0xA7 0x02).wf = true ∧ (Instr.ack [0x85, 0, 0, 0, 0, 0, 0xFF] 0xFF).wf = true ∧
      (Instr.meas (List.replicate 26 0xFF) 0xFFFF).wf = true := by decide
theorem test_witness_DecodedWordIsTheEncoding :
    decode [0, 0xFF, 0x01, 0x12, 0x34, 0, 0, 0, 0, 0xB9] = .ok (.encode 0x12 0x34) ∧
      ([0, 0xFF, 0x01, 0x12, 0x34, 0, 0, 0, 0, 0xB9] : List Byte).head? ≠ some fmtSel ∧
      ([0, 0xFF, 0x01, 0x12, 0x34, 0, 0, 0, 0, 0xB9] : List Byte).head? ≠ some fmtTick :=
  ⟨rfl, by decide, by decide⟩
theorem test_witness_StepRunsCalledOperation :
    ({ block 60000 with script := [.call [5, 11], .tick 1] } : State).script = .call [5, 11] :: [.tick 1] ∧
      decode [5, 11] = .ok .tick := ⟨rfl, rfl⟩
theorem test_witness_StepMakesTheNextMove :
    ({ block 60000 with script := [.tick 0] } : State).script = .tick 0 :: [] ∧
    ({ block 60000 with script := [.rx [1]] } : State).script = .rx [1] :: [] ∧
    ({ block 60000 with script := [.readFails 0] } : State).script = .readFails 0 :: [] ∧
    (block 60000).script = [] := by decide
theorem test_witness_PlacedWordRunsNext :
    decodeTableWord 72 0xFF01A7010000000057 = some .standby ∧ decodeTableWord 8 0x40 = some .decodeOvf ∧
      decodeTableWord 4 0xE = some .dutyWait := by decide
theorem test_witness_FrameBufferStoreThenLoad :
    Memory.wf [(0, 1), (63, 2)] = true ∧ (0 : Nat) < 64 ∧ (63 : Nat) < 64 ∧
      Memory.wf (Memory.write [(0, 1)] 63 2) = true ∧ Memory.write [(0, 1)] 63 2 = [(0, 1), (63, 2)] := by decide
theorem test_witness_EncodedFrameDecodesAsAck :
    let s : State := { waiting with rxq := [0xFF, 0x01, 0x12, 0x34, 0, 0, 0, 0, 0xB9] }
    Memory.wf s.fb = true ∧ s.pend = true ∧ s.cur = 0 ∧ s.rxErr = none ∧
      exec (.encode 0x12 0x34) s = .next { s with ans := .frame s.rxq } :=
  ⟨by decide, rfl, rfl, rfl, rfl⟩
theorem test_witness_DecodeStoresThenRunsItsRow :
    (block 60000).cur.toNat ≤ 64 ∧ ({ block 60000 with cur := 63 } : State).cur.toNat ≤ 64 ∧
      ({ block 60000 with cur := 64 } : State).cur.toNat = 64 := by decide
theorem test_witness_DecodeAtCapacityRejects :
    64 ≤ ({ block 60000 with cur := 64 } : State).cur.toNat ∧ 64 ≤ ({ block 60000 with cur := 127 } : State).cur.toNat := by
  decide
theorem test_witness_ClassifyDependsOnItsBytesOnly : Memory.wf waiting.fb = true := by decide
theorem test_witness_MeasurementFrameCompletesIff : measZero.length = 32 ∧ Memory.wf waiting.fb = true := by decide
theorem test_witness_AckFrameCompletesIff : reply17.length = 9 ∧ Memory.wf waiting.fb = true := by decide
set_option maxRecDepth 4000 in
theorem test_witness_OneChangedByteFailsTheChecksum :
    (exec (.classify .meas measZero) waiting =
        .next { waiting with ans := .verdicts (List.replicate 31 .cont ++ [.complete]) } ∧
      (1 : Byte) ≠ measZero.getD 4 0 ∧ (1 : Byte) ≠ measZero.getD 29 0) ∧
    (exec (.classify .ack reply17) waiting =
        .next { waiting with ans := .verdicts (List.replicate 8 .cont ++ [.complete]) } ∧
      (1 : Byte) ≠ reply17.getD 1 0 ∧ (1 : Byte) ≠ reply17.getD 8 0) :=
  ⟨⟨rfl, by decide, by decide⟩, rfl, by decide, by decide⟩
theorem test_witness_DecoderForgetsAFinishedFrame :
    Memory.wf waiting.fb = true ∧
    exec (.classify .ack [0xFF, 0x86, 0, 0, 0, 0, 0, 0, 0]) waiting =
      .next { waiting with ans := .verdicts (List.replicate 8 .cont ++ [.reject]) } ∧
    exec (.classify .ack reply17) waiting =
      .next { waiting with ans := .verdicts (List.replicate 8 .cont ++ [.complete]) } ∧
    (List.replicate 8 Verdict.cont ++ [Verdict.reject]).getLast? ≠ some Verdict.cont :=
  ⟨by decide, rfl, rfl, by decide⟩
theorem test_witness_DrainEmptiesTheQueue :
    waiting.rxErr = none ∧ (1 < ({ waiting with rxq := [1, 2], rxErr := some 1 } : State).rxq.length) ∧
      ({ waiting with rxq := [1, 2], rxErr := some 2 } : State).rxq.length ≤ 2 := by decide
theorem test_witness_StabilisingTriggersAfterWarmUp :
    let s : State := { block 60000 with fpt := 15000, now := 59999 }
    let t : State := { block 60000 with fpt := 15000, now := 60000 }
    (s.now - s.fpt).toNat < 45000 ∧ 45000 ≤ (t.now - t.fpt).toNat := by decide
theorem test_witness_DutyStateMovesAlongItsCycle :
    waiting.Inv ∧ ∃ t, step { waiting with rxq := reply17 } = .next t ∧ t.ds = .idle :=
  ⟨waiting_inv, _, rfl, by decide⟩
theorem test_witness_CyclingTicksCrossTheirThresholds :
    45000 < (block 60000).ui.toNat ∧ (block 60000).ds = .idle ∧
      45000 < (block 45001).ui.toNat ∧ ({ block 45001 with ds := .stabilising } : State).ds = .stabilising := by decide
theorem test_witness_SilenceForgetsThePartialFrame :
    let s : State := { waiting with lbt := 59649, cur := 5 }
    let c : State := { continuous with lbt := 9499, cur := 5 }
    (s.init = true ∧ (45000 < s.ui.toNat ∧ s.ds = .waiting) ∧ 500 < (s.now - s.lbt).toNat ∧ s.cur ≠ 0) ∧
    (c.init = true ∧ (c.ui.toNat ≤ 45000 ∧ c.ui.toNat ≤ (c.now - c.lmt).toNat) ∧ 500 < (c.now - c.lbt).toNat ∧
      c.cur ≠ 0) := by decide
/-- The first clause of the same statement: a tick that takes a byte changes `LBT`. -/
theorem test_witness_SilenceForgetsThePartialFrame_stamp :
    after (exec .tick { waiting with rxq := [0xFF] }) (fun t => (t.lbt ≠ waiting.lbt : Bool)) = some true := by decide
theorem test_witness_RxLoopTakesEveryByte :
    let s : State := { waiting with rxq := [0xFF] }
    let z : State := { waiting with rxq := [0xFF], rxErr := some 0 }
    (s.rxErr = none ∧ s.rxq ≠ [] ∧ s.rxErr ≠ some 0) ∧ z.rxErr = some 0 := by decide
theorem test_witness_RxLoopIsDecodeByteByByte :
    let s : State := { withFrame waiting 0 (reply17.take 8) with cur := 8, rxq := [0x19, 0x42] }
    s.rxq = 0x19 :: [0x42] ∧ s.rxErr = none ∧
      after (exec (.decode 0x19) { s with rxq := [0x42] }) (·.ans) = some (.verdict .complete) := by decide
theorem test_witness_GroupingOfBytesIsIrrelevant : waiting.rxErr = none := by decide
theorem test_witness_ReadFailureEndsTheLoop :
    let s : State := { waiting with rxq := reply17, rxErr := some 8 }
    let z : State := { waiting with rxq := [0xFF], rxErr := some 0 }
    (s.rxErr = some 8 ∧ 8 < s.rxq.length) ∧ (z.rxErr = some 0 ∧ 0 < z.rxq.length ∧ z.rxq ≠ []) := by decide
theorem test_witness_AckFrameReceived :
    ([0x01, 0x86, 0, 0, 0, 0, 0] : List Byte).length = 7 ∧ ([0x01, 0x86, 0, 0, 0, 0, 0] : List Byte).head? ≠ some 0x86 ∧
      (255 + byteSum [0x01, 0x86, 0, 0, 0, 0, 0] + (0x79 : Byte).toNat) % 256 = 255 ∧
      (255 + byteSum [0x01, 0x86, 0, 0, 0, 0, 0] + (0x78 : Byte).toNat) % 256 ≠ 255 ∧ ReadyFor true waiting :=
  ⟨by decide, by decide, by decide, by decide, waiting_ready⟩
theorem test_witness_ReplyFrameIsPublished :
    (255 + 0x86 + 0x23 + 0x2D + 0x11 + (0x19 : Byte).toNat) % 256 = 255 ∧ ReadyFor true waiting :=
  ⟨by decide, waiting_ready⟩
theorem test_witness_MeasurementFrameReceived :
    (List.replicate 26 (0 : Byte)).length = 26 ∧ 171 + byteSum (List.replicate 26 0) = (0x00AB : Half).toNat ∧
      171 + byteSum (List.replicate 26 0) ≠ (0x01AB : Half).toNat ∧ ReadyFor false continuous :=
  ⟨by decide, by decide, by decide, continuous_ready⟩
theorem test_witness_AckFrameIsNoMeasurement :
    (Instr.ack [0x42, 0x4D, 0x00, 0x1C, 0, 0, 0] 0).wf = true ∧ (Instr.reply86 0 0 0 0).wf = true ∧
      ReadyFor false continuous :=
  ⟨by decide, by decide, continuous_ready⟩
theorem test_witness_EveryStepKeepsTheInvariant :
    (block 60000).Inv ∧ waiting.Inv ∧ continuous.Inv ∧
      ∃ t, step { continuous with script := [.rx [0x42], .tick 20000] } = .next t ∧ t.rxq = [0x42] :=
  ⟨⟨by decide, by decide, by decide, by decide, by decide, by decide⟩, waiting_inv, continuous_inv, _, rfl, rfl⟩
theorem test_witness_InitFlagIsOneShot :
    waiting.onlyMoves = true ∧ waiting.init = true ∧ ∃ t, step waiting = .next t ∧ t.init = true :=
  ⟨by decide, rfl, _, rfl, by decide⟩
/-- A history that ends in `Waiting`. -/
theorem waiting_history : CycleHistory .waiting [.modeQa, .powerOn, .trigger] :=
  .asked (l := [.modeQa, .powerOn]) (.on (l := [.modeQa]) .start)
theorem test_witness_EveryStepSendsAsTold :
    let s : State := { waiting with txq := wire [.modeQa, .powerOn, .trigger] }
    s.Inv ∧ s.SentAsTold ∧ continuous.SentAsTold :=
  ⟨⟨by decide, by decide, by decide, by decide, by decide, by decide⟩, ⟨_, waiting_history, rfl⟩, rfl⟩
theorem test_witness_ContinuousModePublishesNothing :
    continuous.Inv ∧ continuous.ui.toNat ≤ 45000 ∧ ({ continuous with warn := true } : State).warn = true :=
  ⟨continuous_inv, by decide, rfl⟩
theorem test_witness_OnePublicationPerCycle :
    waiting.Inv ∧ ∃ t, step { waiting with rxq := reply17 } = .next t ∧ t.pubq.length = 3 :=
  ⟨waiting_inv, _, rfl, by decide⟩
theorem test_witness_WaitingHasNoTimeout :
    let s : State := { waiting with script := [.tick 60200, .tick 0] }
    s.init = true ∧ 45000 < s.ui.toNat ∧ s.ds = .waiting ∧ s.rxq = [] ∧ s.script.all Stimulus.isTick = true := by decide
theorem test_witness_StaleBytesAreUnobservable :
    let s : State := { waiting with fb := [(0, 0xFF), (1, 7)], cur := 1 }
    let t : State := { waiting with fb := [(0, 0xFF), (1, 9), (63, 4)], cur := 1 }
    s.Inv ∧ Memory.wf t.fb = true ∧ s.SameButStaleBytes t ∧ s ≠ t :=
  ⟨⟨by decide, by decide, by decide, by decide, by decide, by decide⟩, by decide, ⟨rfl, by decide⟩, by decide⟩

end Sys2Proof.Tests
end

section
/-! PROOFS. The statements of 10_state.md: the frame buffer, what DECODE writes, the mode, the `INIT` flag, the invariant
of whole runs, and that bytes of `FB` the frame in progress has not written are unobservable. -/

namespace Sys2Proof.Machine

/-! ### The frame buffer and DECODE -/

/-- Settles O8: the two laws of read after write, the law of the canonical form, and extensionality. -/
theorem frameBufferStoreThenLoad : Obligations.FrameBufferStoreThenLoad := by
  refine ⟨fun m a v hm ha => ⟨Memory.wf_write v hm ha, fun i => ?_⟩, fun m n hm hn h => Memory.ext_from hm hn h⟩
  split
  case isTrue hi => rw [hi, Memory.read_write_same hm]
  case isFalse hi => exact Memory.read_write_other hi

theorem stored_fbAt_other {b : Byte} {s : State} {i : Nat} (hi : i ≠ s.cur.toNat) :
    (stored b s).fbAt i = s.fbAt i :=
  Memory.read_write_other hi

/-- REJECT leaves `FB` alone. -/
theorem reject_fbAt (c : Cause) (s : State) (i : Nat) : (reject c s).2.fbAt i = s.fbAt i := by
  rw [reject_eq]; rfl

theorem decodeByte_fbAt_other {b : Byte} {s : State} {i : Nat} (hi : i ≠ s.cur.toNat) :
    (decodeByte b s).2.fbAt i = s.fbAt i := by
  rcases decodeByte_cases b s with ⟨-, e⟩ | ⟨-, ⟨e, -⟩ | ⟨c, -, e⟩ | ⟨e, -⟩⟩ <;> rw [e]
  · exact reject_fbAt _ _ _
  · exact stored_fbAt_other hi
  · rw [reject_fbAt, stored_fbAt_other hi]
  · exact stored_fbAt_other hi

/-- What REJECT leaves in `CUR`, `EVQ` and `WARN`: the causes with code E2 and E3 warn (R200, D13). -/
theorem reject_effect (c : Cause) (s : State) :
    (reject c s).1 = .reject ∧ (reject c s).2.cur = 0 ∧ ∃ e, (reject c s).2.evq = s.evq ++ [e] ∧
      (e = .e1 ∨ e = .e2 ∨ e = .e3 ∨ e = .e5) ∧ (reject c s).2.warn = (s.warn || (e = .e2 || e = .e3)) := by
  rw [reject_eq]
  refine ⟨rfl, rfl, causeEvent c, rfl, ?_⟩
  cases c <;> simp [causeEvent, warns]

/-- Settles O16, by the cases of DECODE: a byte stored or not, then Continue, Complete or Reject. -/
theorem decodeWritesLittle : Obligations.DecodeWritesLittle := by
  intro b s
  refine ⟨(decodeByte b s).2.answer (.verdict (decodeByte b s).1), (decodeByte b s).1, rfl, rfl,
    congrArg (State.answer · (.verdict (decodeByte b s).1)) (decodeByte_frame b s),
    fun i hi => decodeByte_fbAt_other hi, ?_⟩
  simp only [State.answer_cur, State.answer_warn, State.answer_evq]
  rcases decodeByte_cases b s with ⟨-, e⟩ | ⟨-, ⟨e, -⟩ | ⟨c, -, e⟩ | ⟨e, -⟩⟩ <;> rw [e]
  · exact .inr (.inr (reject_effect .overflow s))
  · exact .inl ⟨rfl, rfl, rfl, rfl⟩
  · exact .inr (.inr (reject_effect c (stored b s)))
  · exact .inr (.inl ⟨rfl, rfl, rfl, rfl⟩)

/-! ### Mode, the `INIT` flag, the duty state -/

/-- Settles O33: `CYC` is R29's comparison. -/
theorem modeIsTheInterval : Obligations.ModeIsTheInterval := by
  intro s
  have hcyc : s.cyc = decide (45000 < s.ui.toNat) := by rw [Bool.eq_iff_iff, cyc_iff, decide_eq_true_iff]
  rw [← hcyc]
  rfl

/-- Settles O55: every TICK leaves the flag set (`tick_frame`), and a step that is no TICK moves inputs only. -/
theorem initFlagIsOneShot : Obligations.InitFlagIsOneShot := by
  refine ⟨fun _ _ _ _ => rfl, fun s => ⟨⟨_, rfl, ?_⟩, ⟨_, rfl, ?_⟩⟩, fun s t hm hst hi => ?_⟩
  · rw [State.answer_init, initOp_eq]
  · obtain ⟨-, -, -, hinit⟩ := tick_frame s
    exact hinit
  · obtain ⟨rest, -, ⟨n, rfl⟩ | ⟨q, e, rfl⟩⟩ := step_cases hm hst
    · obtain ⟨-, -, -, hinit⟩ := tick_frame { s with script := rest, now := n }
      exact hinit
    · exact hi

theorem receiveByte_ds (b : Byte) (s : State) : (receiveByte b s).ds = s.ds ∨ (receiveByte b s).ds = .idle := by
  have hd : (decodeByte b s).2.ds = s.ds := by rw [decodeByte_frame]
  rcases receiveByte_cases b s with ⟨-, e⟩ | ⟨-, e⟩ <;> rw [e]
  · rw [onComplete_eq, ← hd]
    cases (decodeByte b s).2.cyc <;> simp
  · exact .inl hd

/-- The reading steps keep `DS` or end the cycle (R165). -/
theorem readBytes_ds (s : State) : (readBytes s).ds = s.ds ∨ (readBytes s).ds = .idle := by
  refine readBytes_keeps (P := fun t => t.ds = s.ds ∨ t.ds = .idle) (fun t h => ?_) (fun _ _ h => h)
    (fun _ _ _ h => h) (fun b t h => ?_) s (.inl rfl)
  · rw [stale_eq]; split <;> exact h
  · rcases receiveByte_ds b t with e | e
    · rwa [e]
    · exact .inr e

theorem initOp_ds (s : State) : (initOp s).ds = s.ds := by rw [initOp_eq]

/-- TICK moves `DS` only along its cycle (R17), where continuous mode is `Idle` (R16). -/
theorem tick_ds (s : State) (hidle : s.cyc = false → s.ds = .idle) :
    (tick s).ds = s.ds ∨ (s.ds = .idle ∧ (tick s).ds = .stabilising) ∨
      (s.ds = .stabilising ∧ (tick s).ds = .waiting) ∨ (s.ds = .waiting ∧ (tick s).ds = .idle) := by
  have hread := readBytes_ds (initOp s)
  have hinit := initOp_ds s
  rcases tick_cases s with ⟨-, hd, e⟩ | ⟨-, hd, e⟩ | ⟨-, hd, e⟩ | ⟨-, -, e⟩ | ⟨hc, -, e⟩ <;> rw [e]
  · rw [dutyIdle_eq]
    split
    · exact .inl hinit
    · exact .inr (.inl ⟨hd, rfl⟩)
  · rw [dutyStab_eq]
    split
    · exact .inl hinit
    · exact .inr (.inr (.inl ⟨hd, rfl⟩))
  · rcases hread with h | h
    · exact .inl (h.trans hinit)
    · exact .inr (.inr (.inr ⟨hd, h⟩))
  · exact .inl hinit
  · rcases hread with h | h
    · exact .inl (h.trans hinit)
    · exact .inl (h.trans (hidle hc).symm)

/-- Settles O39: a step is a TICK (`tick_ds`) or leaves `DS` alone. -/
theorem dutyStateMovesAlongItsCycle : Obligations.DutyStateMovesAlongItsCycle := by
  intro s t hinv hst
  obtain ⟨rest, -, ⟨n, rfl⟩ | ⟨q, e, rfl⟩⟩ := step_cases hinv.moves hst
  · exact tick_ds { s with script := rest, now := n } hinv.idleIfContinuous
  · exact .inl rfl

/-! ### The invariant of whole runs -/

/-- After RESET, with any configuration (R230). -/
theorem resetWith_inv (ui : Time) (a b c : Bool) : (State.resetWith ui a b c).Inv where
  fbWf := Memory.wf_nil
  curBound := Nat.zero_le _
  pendIff := by simp [State.resetWith]
  idleIfContinuous _ := rfl
  idleBeforeFirstTick _ := rfl
  moves := rfl

/-- Settles O53. -/
theorem invariantsHoldAfterReset : Obligations.InvariantsHoldAfterReset :=
  fun ui a b c => ⟨resetWith_inv ui a b c, rfl, resetWith_inv _ _ _ _⟩

/-- The invariant reads neither the inputs, nor `LBT`, nor the answer; of the script only that it holds moves. -/
theorem State.Inv.withInputs {s : State} (h : s.Inv) (n l : Time) (q : List Byte) (e : Option Nat) (a : Answer)
    {rest : List Stimulus} (hrest : rest.all Stimulus.isMove = true) :
    ({ s with now := n, lbt := l, rxq := q, rxErr := e, script := rest, ans := a } : State).Inv where
  fbWf := h.fbWf
  curBound := h.curBound
  pendIff := h.pendIff
  idleIfContinuous := h.idleIfContinuous
  idleBeforeFirstTick := h.idleBeforeFirstTick
  moves := hrest

/-- Of what DECODE writes, the invariant reads `FB` and `CUR`. -/
theorem State.Inv.withDecoded {s : State} (h : s.Inv) {m : Memory} {c : BitVec 7} (w : Bool) (ev : List Event)
    (hm : Memory.wf m = true) (hc : c.toNat ≤ 31) :
    ({ s with fb := m, cur := c, warn := w, evq := ev } : State).Inv where
  fbWf := hm
  curBound := hc
  pendIff := h.pendIff
  idleIfContinuous := h.idleIfContinuous
  idleBeforeFirstTick := h.idleBeforeFirstTick
  moves := h.moves

theorem decodeByte_keeps_inv (b : Byte) {s : State} (h : s.Inv) : (decodeByte b s).2.Inv := by
  obtain ⟨hm, hc⟩ := decodeByte_keeps_bounds b s h.fbWf h.curBound
  rw [decodeByte_frame]
  exact h.withDecoded _ _ hm hc

/-- ON_COMPLETE clears `PEND` and, in cycling mode, leaves `Waiting` with it (R153, R165). -/
theorem onComplete_keeps_inv {s : State} (h : s.Inv) : (onComplete s).Inv := by
  rw [onComplete_eq]
  refine ⟨h.fbWf, Nat.zero_le _, ⟨nofun, ?_⟩, fun hc => ?_, fun hi => ?_, h.moves⟩
  · rintro ⟨hc, hw⟩
    have hc : s.cyc = true := hc
    simp [hc] at hw
  · have hc : s.cyc = false := hc
    simpa [hc] using h.idleIfContinuous hc
  · simpa using fun _ => h.idleBeforeFirstTick hi

theorem receiveByte_keeps_inv (b : Byte) {s : State} (h : s.Inv) : (receiveByte b s).Inv := by
  rcases receiveByte_cases b s with ⟨-, e⟩ | ⟨-, e⟩ <;> rw [e]
  · exact onComplete_keeps_inv (decodeByte_keeps_inv b h)
  · exact decodeByte_keeps_inv b h

theorem stale_keeps_inv {s : State} (h : s.Inv) : (stale s).Inv := by
  rw [stale_eq]
  split
  · exact h.withDecoded s.warn _ h.fbWf (Nat.zero_le _)
  · exact h

theorem readBytes_keeps_inv {s : State} (h : s.Inv) : (readBytes s).Inv :=
  readBytes_keeps (P := State.Inv) (fun _ => stale_keeps_inv)
    (fun t l ht => ht.withInputs t.now l t.rxq t.rxErr t.ans ht.moves)
    (fun t q e ht => ht.withInputs t.now t.lbt q e t.ans ht.moves)
    (fun b _ => receiveByte_keeps_inv b) s h

theorem initOp_keeps_inv {s : State} (h : s.Inv) : (initOp s).Inv := by
  rw [initOp_eq]
  exact ⟨h.fbWf, h.curBound, h.pendIff, h.idleIfContinuous, nofun, h.moves⟩

/-- In cycling mode after the first tick, `DS` is free but for what `PEND` says of it (R20). -/
theorem State.Inv.ofCycling {s : State} (hc : s.cyc = true) (hi : s.init = true) (hfb : Memory.wf s.fb = true)
    (hcur : s.cur.toNat ≤ 31) (hpend : s.pend = true ↔ s.ds = .waiting) (hm : s.onlyMoves = true) : s.Inv where
  fbWf := hfb
  curBound := hcur
  pendIff := ⟨fun hp => ⟨hc, hpend.1 hp⟩, fun ⟨_, hd⟩ => hpend.2 hd⟩
  idleIfContinuous hn := nomatch hc.symm.trans hn
  idleBeforeFirstTick hn := nomatch hi.symm.trans hn
  moves := hm

/-- POWER_ON leaves `Idle`, where nothing is pending, for `Stabilising`, where nothing is pending (R162). -/
theorem dutyIdle_keeps_inv {s : State} (h : s.Inv) (hc : s.cyc = true) (hd : s.ds = .idle) (hi : s.init = true) :
    (dutyIdle s).Inv := by
  have hp : s.pend ≠ true := fun hp => by simpa [hd] using h.pendIff.1 hp
  rw [dutyIdle_eq]
  split
  · exact h
  · exact .ofCycling hc hi h.fbWf h.curBound ⟨fun hp' => absurd hp' hp, nofun⟩ h.moves

/-- TRIGGER sets `PEND` where `Waiting` begins (R163, R20). -/
theorem dutyStab_keeps_inv {s : State} (h : s.Inv) (hc : s.cyc = true) (hi : s.init = true) : (dutyStab s).Inv := by
  rw [dutyStab_eq]
  split
  · exact h
  · exact .ofCycling hc hi h.fbWf h.curBound ⟨fun _ => rfl, fun _ => rfl⟩ h.moves

theorem tick_keeps_inv {s : State} (h : s.Inv) : (tick s).Inv := by
  have h0 := initOp_keeps_inv h
  have hi : (initOp s).init = true := by rw [initOp_eq]
  have hcyc : (initOp s).cyc = s.cyc := by rw [initOp_eq]; rfl
  rcases tick_cases s with ⟨hc, hd, e⟩ | ⟨hc, -, e⟩ | ⟨-, -, e⟩ | ⟨-, -, e⟩ | ⟨-, -, e⟩ <;> rw [e]
  · exact dutyIdle_keeps_inv h0 (hcyc.trans hc) ((initOp_ds s).trans hd) hi
  · exact dutyStab_keeps_inv h0 (hcyc.trans hc) hi
  · exact readBytes_keeps_inv h0
  · exact h0
  · exact readBytes_keeps_inv h0

/-- Settles O54: a step is a TICK, which keeps the invariant branch by branch, or moves inputs only. -/
theorem everyStepKeepsTheInvariant : Obligations.EveryStepKeepsTheInvariant := by
  intro s t hinv hst
  obtain ⟨rest, hrest, ⟨n, rfl⟩ | ⟨q, e, rfl⟩⟩ := step_cases hinv.moves hst
  · have ht := tick_keeps_inv (hinv.withInputs n s.lbt s.rxq s.rxErr s.ans hrest)
    exact ht.withInputs _ _ _ _ .nothing ht.moves
  · exact hinv.withInputs s.now s.lbt q e s.ans hrest

end Sys2Proof.Machine
end

section
/-! PROOFS. Bytes of `FB` that the frame in progress has not written are unobservable (R11): a simulation between two
states that differ only there, operation by operation. -/

namespace Sys2Proof.Machine

/-! ### The relation -/

/-- Two states that differ only in stale bytes, both canonical, with the cursor in its range (R13). -/
structure State.StalePair (s t : State) : Prop where
  same : s.SameButStaleBytes t
  wfLeft : Memory.wf s.fb = true
  wfRight : Memory.wf t.fb = true
  curBound : s.cur.toNat ≤ 31

/-- The operation neither reads nor writes `FB`, and keeps the cursor or sets it to 0. -/
structure IgnoresFb (f : State → State) : Prop where
  commutes : ∀ (s : State) (m : Memory), f { s with fb := m } = { f s with fb := m }
  cur : ∀ s : State, (f s).cur = s.cur ∨ (f s).cur = 0

theorem IgnoresFb.fb {f : State → State} (hf : IgnoresFb f) (s : State) : (f s).fb = s.fb := by
  have h : f s = { f s with fb := s.fb } := hf.commutes s s.fb
  rw [h]

/-- An operation that ignores `FB` keeps the relation. -/
theorem State.StalePair.map {s t : State} (h : s.StalePair t) {f : State → State} (hf : IgnoresFb f) :
    (f s).StalePair (f t) := by
  obtain ⟨⟨hst, hag⟩, hs, ht, hc⟩ := h
  have hft : { f s with fb := t.fb } = f t := by rw [← hf.commutes, hst]
  refine ⟨⟨by rw [hf.fb t, hft], fun a ha => ?_⟩, by rwa [hf.fb], by rwa [hf.fb], ?_⟩
  · rw [State.fbAt, State.fbAt, hf.fb, hf.fb]
    rcases hf.cur s with e | e <;> rw [e] at ha
    · exact hag a ha
    · exact absurd ha (Nat.not_lt_zero _)
  · rcases hf.cur s with e | e <;> rw [e]
    · exact hc
    · exact Nat.zero_le _

/-! ### Operations that ignore `FB` -/

theorem setInputs_ignoresFb (n : Time) (q : List Byte) (e : Option Nat) (rest : List Stimulus) :
    IgnoresFb fun s => { s with now := n, rxq := q, rxErr := e, script := rest } :=
  ⟨fun _ _ => rfl, fun _ => .inl rfl⟩

theorem answer_ignoresFb (a : Answer) : IgnoresFb (State.answer · a) :=
  ⟨fun _ _ => rfl, fun _ => .inl rfl⟩

theorem initOp_ignoresFb : IgnoresFb initOp :=
  ⟨fun _ _ => by rw [initOp_eq, initOp_eq]; rfl, fun _ => .inl (by rw [initOp_eq])⟩

theorem stampRead_ignoresFb : IgnoresFb stampRead :=
  ⟨fun _ _ => by rw [stampRead_eq, stampRead_eq]; rfl, fun _ => .inl (by rw [stampRead_eq])⟩

theorem stale_ignoresFb : IgnoresFb stale where
  commutes s m := by
    have hsil : ({ s with fb := m } : State).silent = s.silent := rfl
    rw [stale_eq, stale_eq, hsil]
    cases s.silent <;> rfl
  cur s := by
    rw [stale_eq]
    split
    · exact .inr rfl
    · exact .inl rfl

theorem dutyIdle_ignoresFb : IgnoresFb dutyIdle where
  commutes s m := by
    have hoff : ({ s with fb := m } : State).offTimeRuns = s.offTimeRuns := rfl
    rw [dutyIdle_eq, dutyIdle_eq, hoff]
    cases s.offTimeRuns <;> rfl
  cur s := by
    rw [dutyIdle_eq]
    split <;> exact .inl rfl

theorem drain_ignoresFb : IgnoresFb drain where
  commutes s m := by
    unfold drain
    cases s.rxErr with
    | none => rfl
    | some n =>
      dsimp only
      split <;> rfl
  cur s := by rw [drain_frame]; exact .inl rfl

theorem dutyStab_ignoresFb : IgnoresFb dutyStab where
  commutes s m := by
    have hwarm : ({ s with fb := m } : State).warmUpRuns = s.warmUpRuns := rfl
    rw [dutyStab_eq, dutyStab_eq, hwarm, drain_ignoresFb.commutes]
    cases s.warmUpRuns <;> rfl
  cur s := by
    rw [dutyStab_eq]
    split <;> exact .inl rfl

/-! ### The byte loop -/

/-- A frame completes at the last index of its shape (R106, R110), so past the bytes of a reply. -/
theorem cur_of_complete {b : Byte} {s : State} (h : (decodeByte b s).1 = .complete) : 8 ≤ s.cur.toNat := by
  rcases decodeByte_cases b s with ⟨-, e⟩ | ⟨-, ⟨e, -⟩ | ⟨c, -, e⟩ | ⟨-, ⟨-, hc, -⟩ | ⟨-, hc, -⟩⟩⟩
  · rw [e, reject_eq] at h; cases h
  · rw [e] at h; cases h
  · rw [e, reject_eq] at h; cases h
  · omega
  · omega

/-- ON_COMPLETE reads bytes 1 to 7 of `FB` only (R150, R151). -/
theorem onComplete_withFb {s : State} {m : Memory}
    (h : ∀ a, a < 8 → s.fbAt a = ({ s with fb := m } : State).fbAt a) :
    onComplete { s with fb := m } = { onComplete s with fb := m } := by
  have hpub : ({ s with fb := m } : State).mayPublish = s.mayPublish := by
    rw [State.mayPublish, State.mayPublish, h 1 (by omega)]
  have hbe : ∀ i, i < 7 → ({ s with fb := m } : State).be16 i = s.be16 i := fun i hi => by
    rw [State.be16, State.be16, h i (by omega), h (i + 1) (by omega)]
  rw [onComplete_eq, onComplete_eq, hpub, hbe 6 (by omega), hbe 2 (by omega), hbe 4 (by omega)]
  rfl

theorem onComplete_cur (s : State) : (onComplete s).cur = 0 := by rw [onComplete_eq]

theorem onComplete_fb (s : State) : (onComplete s).fb = s.fb := by rw [onComplete_eq]

/-- ON_COMPLETE on two states that agree in every byte of a reply. -/
theorem State.StalePair.onComplete {s t : State} (h : s.StalePair t) (hag : ∀ a, a < 8 → s.fbAt a = t.fbAt a) :
    (onComplete s).StalePair (onComplete t) := by
  obtain ⟨⟨hst, -⟩, hs, ht, -⟩ := h
  have hcomm : Machine.onComplete t = { Machine.onComplete s with fb := t.fb } := by
    rw [← onComplete_withFb (by rwa [hst]), hst]
  refine ⟨⟨by rw [onComplete_fb t, hcomm], fun a ha => ?_⟩, by rwa [onComplete_fb], by rwa [onComplete_fb], ?_⟩
  · rw [onComplete_cur] at ha
    exact absurd ha (Nat.not_lt_zero _)
  · rw [onComplete_cur]
    exact Nat.zero_le _

theorem State.StalePair.receiveByte {s t : State} (h : s.StalePair t) (b : Byte) :
    (receiveByte b s).StalePair (receiveByte b t) := by
  obtain ⟨hsame, hs, ht, hc⟩ := h
  have hct : t.cur.toNat ≤ 31 := by rw [← hsame.1]; exact hc
  obtain ⟨hv, hsame', hag⟩ := decodeByte_sameButStale b hsame hs ht hc
  obtain ⟨hs', hc'⟩ := decodeByte_keeps_bounds b s hs hc
  obtain ⟨ht', -⟩ := decodeByte_keeps_bounds b t ht hct
  have hpair : (decodeByte b s).2.StalePair (decodeByte b t).2 := ⟨hsame', hs', ht', hc'⟩
  rcases receiveByte_cases b s with ⟨es, hrs⟩ | ⟨es, hrs⟩ <;>
    rcases receiveByte_cases b t with ⟨et, hrt⟩ | ⟨et, hrt⟩
  · rw [hrs, hrt]
    have h8 := cur_of_complete es
    exact hpair.onComplete fun a ha => hag es a (by omega)
  · exact absurd (hv.symm.trans es) et
  · exact absurd (hv.trans et) es
  · rw [hrs, hrt]
    exact hpair

theorem State.StalePair.receiveAll (q : List Byte) {s t : State} (h : s.StalePair t) :
    (receiveAll q s).StalePair (receiveAll q t) := by
  induction q generalizing s t with
  | nil => exact h
  | cons b rest ih =>
    have hpop : ∀ e : Option Nat,
        ({ s with rxq := rest, rxErr := e } : State).StalePair { t with rxq := rest, rxErr := e } := fun e =>
      h.map (f := fun u => { u with rxq := rest, rxErr := e }) ⟨fun _ _ => rfl, fun _ => .inl rfl⟩
    have herr : t.rxErr = s.rxErr := by rw [← h.same.1]
    rw [Machine.receiveAll, Machine.receiveAll, herr]
    split
    · exact h.map (f := fun u => { u with rxErr := none }) ⟨fun _ _ => rfl, fun _ => .inl rfl⟩
    · exact ih ((hpop _).receiveByte b)

theorem State.StalePair.rxLoop {s t : State} (h : s.StalePair t) : (rxLoop s).StalePair (rxLoop t) := by
  have hrxq : t.rxq = s.rxq := by rw [← h.same.1]
  rw [Machine.rxLoop, Machine.rxLoop, hrxq]
  exact (h.map stampRead_ignoresFb).receiveAll s.rxq

theorem State.StalePair.readBytes {s t : State} (h : s.StalePair t) : (readBytes s).StalePair (readBytes t) := by
  have hstale := h.map stale_ignoresFb
  have hrxq : t.rxq = s.rxq := by rw [← h.same.1]
  rcases readBytes_cases s with ⟨hs, es⟩ | ⟨hs, es⟩ <;> rcases readBytes_cases t with ⟨ht, et⟩ | ⟨ht, et⟩
  · rw [es, et]
    exact hstale
  · exact absurd (hrxq.trans hs) ht
  · exact absurd (hrxq.symm.trans ht) hs
  · rw [es, et]
    exact hstale.rxLoop

/-! ### TICK and the step -/

theorem State.StalePair.tick {s t : State} (h : s.StalePair t) : (tick s).StalePair (tick t) := by
  have h0 := h.map initOp_ignoresFb
  have hcyc : (initOp t).cyc = (initOp s).cyc := by rw [← h0.same.1]; rfl
  have hds : (initOp t).ds = (initOp s).ds := by rw [← h0.same.1]
  have hgate : (initOp t).gateClosed = (initOp s).gateClosed := by rw [← h0.same.1]; rfl
  simp only [Machine.tick, hcyc, hds, hgate]
  cases (initOp s).cyc with
  | true =>
    cases (initOp s).ds with
    | idle => exact h0.map dutyIdle_ignoresFb
    | stabilising => exact h0.map dutyStab_ignoresFb
    | waiting => exact h0.readBytes
  | false =>
    cases (initOp s).gateClosed with
    | true => exact h0
    | false => exact h0.readBytes

/-- Which move a step makes does not depend on `FB`. -/
theorem step_withFb {s : State} (hm : s.onlyMoves = true) :
    ∃ n q e rest,
      (∀ m, step { s with fb := m } =
        .next ((tick { s with fb := m, now := n, rxq := q, rxErr := e, script := rest }).answer .nothing)) ∨
      ∀ m, step { s with fb := m } = .next { s with fb := m, now := n, rxq := q, rxErr := e, script := rest } := by
  cases hs : s.script with
  | nil => exact ⟨s.now, s.rxq, s.rxErr, [], .inl fun _ => rfl⟩
  | cons line rest =>
    cases line with
    | rx bytes =>
      exact ⟨s.now, s.rxq ++ bytes, s.rxErr, rest, .inr fun _ => rfl⟩
    | readFails k => exact ⟨s.now, s.rxq, some k, rest, .inr fun _ => rfl⟩
    | tick n => exact ⟨n, s.rxq, s.rxErr, rest, .inl fun _ => rfl⟩
    | call word => rw [State.onlyMoves, hs] at hm; simp [Stimulus.isMove] at hm

/-- Settles O60: the two states make the same move, and TICK keeps the relation operation by operation. -/
theorem staleBytesAreUnobservable : Obligations.StaleBytesAreUnobservable := by
  intro s t s' hinv ht hst hstep
  have hpair : s.StalePair t := ⟨hst, hinv.fbWf, ht, hinv.curBound⟩
  have hts : step t = step { s with fb := t.fb } := by rw [hst.1]
  obtain ⟨n, q, e, rest, hmove⟩ := step_withFb hinv.moves
  have hin := hpair.map (setInputs_ignoresFb n q e rest)
  have hfb : ({ t with now := n, rxq := q, rxErr := e, script := rest } : State) =
      { s with fb := t.fb, now := n, rxq := q, rxErr := e, script := rest } := by
    rw [← hst.1]
  rw [hfb] at hin
  rcases hmove with hmove | hmove
  · obtain rfl := Host.Outcome.next.inj ((hmove s.fb).symm.trans hstep)
    exact ⟨_, hts.trans (hmove t.fb), (hin.tick.map (answer_ignoresFb .nothing)).same⟩
  · obtain rfl := Host.Outcome.next.inj ((hmove s.fb).symm.trans hstep)
    exact ⟨_, hts.trans (hmove t.fb), hin.same⟩

end Sys2Proof.Machine
end

section
/-! PROOFS. The statements of 30_encoding.md: the round trip through the call words, both ways, the step that runs a
call, and what the receiver does with a whole inbound frame. -/

namespace Sys2Proof.Machine

open Laws

/-! ### From an operation to its word and back -/

/-- Settles O2, operation by operation (Laws/PerInstr.lean). -/
theorem decodeOfEncodeIsIdentity : Obligations.DecodeOfEncodeIsIdentity := by
  intro i
  cases i with
  | setModeQa => exact RoundTrip.setModeQa
  | setModeActive => exact RoundTrip.setModeActive
  | trigger => exact RoundTrip.trigger
  | powerOn => exact RoundTrip.powerOn
  | standby => exact RoundTrip.standby
  | encode cmd data => exact RoundTrip.encode cmd data
  | ack body chk => exact RoundTrip.ack body chk
  | reply86 pm2_5 pm10_0 pm1_0 chk => exact RoundTrip.reply86 pm2_5 pm10_0 pm1_0 chk
  | meas data chk => exact RoundTrip.meas data chk
  | decodeOvf => exact RoundTrip.decodeOvf
  | decM0 b => exact RoundTrip.decM0 b
  | decM1 b => exact RoundTrip.decM1 b
  | decM2 => exact RoundTrip.decM2
  | decM3 => exact RoundTrip.decM3
  | decM31 => exact RoundTrip.decM31
  | decMb => exact RoundTrip.decMb
  | decMx => exact RoundTrip.decMx
  | decA0 b => exact RoundTrip.decA0 b
  | decA8 => exact RoundTrip.decA8
  | decAb => exact RoundTrip.decAb
  | decAx => exact RoundTrip.decAx
  | init => exact RoundTrip.init
  | dutyIdle => exact RoundTrip.dutyIdle
  | dutyStab => exact RoundTrip.dutyStab
  | dutyWait => exact RoundTrip.dutyWait
  | contGate => exact RoundTrip.contGate
  | decode b => exact RoundTrip.decode b
  | cont => exact RoundTrip.cont
  | reject cause => exact RoundTrip.reject cause
  | complete => exact RoundTrip.complete
  | classify shape bytes => exact RoundTrip.classify shape bytes
  | send cmd data => exact RoundTrip.send cmd data
  | extract => exact RoundTrip.extract
  | publish pm1_0 pm2_5 pm10_0 => exact RoundTrip.publish pm1_0 pm2_5 pm10_0
  | onComplete => exact RoundTrip.onComplete
  | mode => exact RoundTrip.mode
  | dutyDone => exact RoundTrip.dutyDone
  | tick => exact RoundTrip.tick
  | stale => exact RoundTrip.stale
  | rxempty => exact RoundTrip.rxempty
  | rxloop => exact RoundTrip.rxloop
  | drain => exact RoundTrip.drain
  | reset ui attPm1_0 attPm2_5 attPm10_0 => exact RoundTrip.reset ui attPm1_0 attPm2_5 attPm10_0

/-! ### From a word to its operation and back -/

/-- The word is the call word of a well-formed operation, and of this one. -/
def IsWordOf (w : List Byte) (i : Instr) : Prop := i.wf = true ∧ encode i = w

/-- A command frame is the word of its pair's row: ENCODE's, or that of one of the five pairs (R66). -/
theorem commandRow_isWordOf (cmd data : Byte) : IsWordOf (fmtCmd :: commandFrame cmd data) (commandRow cmd data) := by
  cases hown : ownRow cmd data with
  | false =>
    rw [RoundTrip.commandRow_of_not_ownRow hown]
    exact ⟨by simp [Instr.wf, hown], rfl⟩
  | true =>
    simp only [ownRow, List.mem_cons, Prod.mk.injEq, List.not_mem_nil, or_false, decide_eq_true_eq] at hown
    obtain ⟨rfl, rfl⟩ | ⟨rfl, rfl⟩ | ⟨rfl, rfl⟩ | ⟨rfl, rfl⟩ | ⟨rfl, rfl⟩ := hown <;> exact ⟨rfl, rfl⟩

/-- CMD9: the eight bytes the row fixes and the checksum are the command frame's (R60). -/
theorem decodeCmd_isWordOf {w : List Byte} {i : Instr} (h : decodeCmd w = .ok i) : IsWordOf (fmtCmd :: w) i := by
  unfold decodeCmd at h
  split at h
  case h_2 => nomatch h
  case h_1 cmd data b4 b5 b6 b7 chk =>
    split at h
    case isTrue => nomatch h
    split at h
    case isTrue => nomatch h
    case isFalse b0 b1 hfix hchk =>
      simp only [ne_eq, not_not, List.cons.injEq, and_true] at hfix hchk
      obtain ⟨rfl, rfl, rfl, rfl, rfl, rfl⟩ := hfix
      obtain rfl := hchk
      obtain rfl := Except.ok.inj h
      exact commandRow_isWordOf cmd data

/-- ACK9: byte 1 tells REPLY86 from ACK, and every other byte is an operand's (R61). -/
theorem decodeAck_isWordOf {w : List Byte} {i : Instr} (h : decodeAck w = .ok i) : IsWordOf (fmtAck :: w) i := by
  unfold decodeAck at h
  split at h
  case h_2 => nomatch h
  case h_1 b0 b1 b2 b3 b4 b5 b6 b7 chk =>
    split at h
    case isTrue => nomatch h
    case isFalse hstart =>
      obtain rfl := not_not.1 hstart
      split at h
      case isTrue hcode =>
        obtain rfl := hcode
        obtain rfl := Except.ok.inj h
        exact ⟨rfl, by simp [encode, replyBody, ackFrame]⟩
      case isFalse hcode =>
        obtain rfl := Except.ok.inj h
        have hhead : [b1, b2, b3, b4, b5, b6, b7].head? ≠ some 0x86 := fun e => hcode (Option.some.inj e)
        refine ⟨?_, rfl⟩
        rw [Instr.wf, bne_iff_ne.2 hhead]
        rfl

/-- The parts of a measurement frame: four bytes, twenty-six and the last two. -/
theorem measParts_append {f : List Byte} (h : f.length = 32) :
    f.take 4 ++ ((f.drop 4).take 26 ++ [f.getD 30 0, f.getD 31 0]) = f := by
  have htail : f.drop 30 = [f.getD 30 0, f.getD 31 0] := by
    rw [List.drop_eq_getElem_cons (by omega), List.drop_eq_getElem_cons (by omega), List.drop_of_length_le (by omega),
      List.getD_eq_getElem _ _ (by omega), List.getD_eq_getElem _ _ (by omega)]
  have hmid : (f.drop 4).take 26 ++ f.drop 30 = f.drop 4 := by
    rw [show f.drop 30 = (f.drop 4).drop 26 by rw [List.drop_drop], List.take_append_drop]
  rw [← htail, hmid, List.take_append_drop]

/-- MEAS32: the header is fixed, and the other bytes are the operands' (R62). -/
theorem decodeMeas_isWordOf {w : List Byte} {i : Instr} (h : decodeMeas w = .ok i) : IsWordOf (fmtMeas :: w) i := by
  unfold decodeMeas at h
  split at h
  case isTrue => nomatch h
  split at h
  case isTrue => nomatch h
  case isFalse hlen hhead =>
    have hlen := not_not.1 hlen
    obtain rfl := Except.ok.inj h
    refine ⟨by simp [Instr.wf, hlen], ?_⟩
    rw [encode, measFrame, highByte_joinBytes, lowByte_joinBytes, ← not_not.1 hhead, measParts_append hlen]

/-! ### CALL words -/

theorem takeNone_isWordOf {i j : Instr} {op : Byte} {rest : List Byte} (h : takeNone i rest = .ok j)
    (hi : IsWordOf [fmtCall, op] i) : IsWordOf (fmtCall :: op :: rest) j := by
  match rest, h with
  | [], h => obtain rfl := Except.ok.inj h; exact hi

theorem timeBytes_joinTime (a b c d : Byte) : timeBytes (joinTime a b c d) = [a, b, c, d] := by
  have ha := a.isLt
  have hb := b.isLt
  have hc := c.isLt
  have hd := d.isLt
  simp only [timeBytes, joinTime, BitVec.toNat_ofNat, Nat.shiftRight_eq_div_pow, List.cons.injEq, and_true,
    ← BitVec.toNat_inj]
  omega

theorem causeCode_of_causeOf {b : Byte} {c : Cause} (h : causeOf b = some c) : causeCode c = b := by
  unfold causeOf at h
  split at h <;> cases h <;> rfl

theorem shapeCode_of_shapeOf {b : Byte} {k : Shape} (h : shapeOf b = some k) : shapeCode k = b := by
  unfold shapeOf at h
  split at h <;> cases h <;> rfl

theorem bitCode_of_bitOf {b : Byte} {x : Bool} (h : bitOf b = some x) : bitCode x = b := by
  unfold bitOf at h
  split at h <;> cases h <;> rfl

/-- CALL: the number is the row's, and the bytes behind it are its operands' (log 3). -/
theorem decodeCall_isWordOf {op : Byte} {rest : List Byte} {i : Instr} (h : decodeCall op rest = .ok i) :
    IsWordOf (fmtCall :: op :: rest) i := by
  have hop : op = BitVec.ofNat 8 op.toNat := by simp
  rw [hop]
  unfold decodeCall at h
  generalize op.toNat = n at h
  match n, h with
  | 0, h =>
    match rest, h with
    | [b], h => obtain rfl := Except.ok.inj h; exact ⟨rfl, rfl⟩
  | 1, h => exact takeNone_isWordOf h ⟨rfl, rfl⟩
  | 2, h =>
    match rest, h with
    | [c], h =>
      simp only at h
      split at h
      case h_2 => nomatch h
      case h_1 cause hc =>
        obtain rfl := Except.ok.inj h
        exact ⟨rfl, by rw [encode, causeCode_of_causeOf hc]; rfl⟩
  | 3, h => exact takeNone_isWordOf h ⟨rfl, rfl⟩
  | 4, h =>
    match rest, h with
    | k :: bytes, h =>
      simp only at h
      split at h
      case h_2 => nomatch h
      case h_1 shape hk =>
        obtain rfl := Except.ok.inj h
        exact ⟨rfl, by rw [encode, shapeCode_of_shapeOf hk]; rfl⟩
  | 5, h =>
    match rest, h with
    | [cmd, data], h => obtain rfl := Except.ok.inj h; exact ⟨rfl, rfl⟩
  | 6, h => exact takeNone_isWordOf h ⟨rfl, rfl⟩
  | 7, h =>
    match rest, h with
    | [a, b, c, d, e, f], h =>
      obtain rfl := Except.ok.inj h
      exact ⟨rfl, by simp [encode]⟩
  | 8, h => exact takeNone_isWordOf h ⟨rfl, rfl⟩
  | 9, h => exact takeNone_isWordOf h ⟨rfl, rfl⟩
  | 10, h => exact takeNone_isWordOf h ⟨rfl, rfl⟩
  | 11, h => exact takeNone_isWordOf h ⟨rfl, rfl⟩
  | 12, h => exact takeNone_isWordOf h ⟨rfl, rfl⟩
  | 13, h => exact takeNone_isWordOf h ⟨rfl, rfl⟩
  | 14, h => exact takeNone_isWordOf h ⟨rfl, rfl⟩
  | 15, h => exact takeNone_isWordOf h ⟨rfl, rfl⟩
  | 16, h =>
    match rest, h with
    | [a, b, c, d, x, y, z], h =>
      simp only at h
      split at h
      case h_2 => nomatch h
      case h_1 p1 p2 p3 h1 h2 h3 =>
        obtain rfl := Except.ok.inj h
        refine ⟨rfl, ?_⟩
        rw [encode, timeBytes_joinTime, bitCode_of_bitOf h1, bitCode_of_bitOf h2, bitCode_of_bitOf h3]
        rfl

/-- Settles O3, by the format byte. -/
theorem decodedWordIsTheEncoding : Obligations.DecodedWordIsTheEncoding := by
  intro w i h hsel htick
  match w, h with
  | fmt :: word, h =>
    rcases eq_or_ne fmt fmtCmd with rfl | hcmd
    · exact decodeCmd_isWordOf h
    rcases eq_or_ne fmt fmtAck with rfl | hack
    · exact decodeAck_isWordOf h
    rcases eq_or_ne fmt fmtMeas with rfl | hmeas
    · exact decodeMeas_isWordOf h
    rcases eq_or_ne fmt fmtCall with rfl | hcall
    · match word, h with
      | op :: rest, h => exact decodeCall_isWordOf h
    · have hsel : fmt ≠ fmtSel := fun e => hsel (congrArg some e)
      have htick : fmt ≠ fmtTick := fun e => htick (congrArg some e)
      have hnone : decode (fmt :: word) = .error .noFormat := by simp [decode, hcmd, hack, hmeas, hsel, htick, hcall]
      rw [hnone] at h
      nomatch h

/-- Settles O1: the decoder evaluated on each word. -/
theorem specWordsDecode : Obligations.SpecWordsDecode :=
  ⟨rfl, rfl, rfl, rfl, rfl, rfl, rfl, rfl, rfl, rfl, rfl, rfl⟩

/-! ### The step that runs a call -/

theorem runCall_of_decode {word : List Byte} {i : Instr} (h : decode word = .ok i) (s : State) :
    runCall word s = exec i s := by
  unfold runCall
  rw [h]

/-- Settles O4: the next line of the script is the call. -/
theorem stepRunsCalledOperation : Obligations.StepRunsCalledOperation := by
  intro s word rest i hs hdec
  unfold step runLine
  rw [hs]
  exact runCall_of_decode hdec _

theorem decode_tableWord {nbits w : Nat} {i : Instr} (h : decodeTableWord nbits w = some i) :
    decode (tableWord nbits w) = .ok i := by
  unfold decodeTableWord at h
  split at h
  case h_1 j hj => rw [hj, Option.some.inj h]
  case h_2 => nomatch h

/-- Settles O6: the placed word is the next line of the script, and taking it off leaves the state as it was. -/
theorem placedWordRunsNext : Obligations.PlacedWordRunsNext := fun s nbits w i h =>
  stepRunsCalledOperation (s.withFetchWord nbits w) (tableWord nbits w) s.script i rfl (decode_tableWord h)

/-! ### A whole frame received -/

theorem ReadyFor.cur_toNat {p : Bool} {s : State} (hs : ReadyFor p s) : s.cur.toNat = 0 := by
  rw [hs.start]; rfl

/-- What is read once the last byte of a frame is stored: the frame from index 0, and behind it what was there. -/
theorem stored_took_fbAt {p : Bool} {s : State} {l : List Byte} {b : Byte} (hs : ReadyFor p s) (hl : l.length ≤ 63)
    (i : Nat) :
    (stored b (s.took l)).fbAt i = if i < (l ++ [b]).length then (l ++ [b]).getD i 0 else s.fbAt i := by
  rw [stored_took hs.cur_toNat hl]
  exact frame_reads hs.fbWf hs.cur_toNat (by simp; omega) i

/-- A frame whose last byte decides `p`: ON_COMPLETE, or the checksum reject. -/
theorem decodeAll_of_last {l : List Byte} {b : Byte} {s : State} {p : Prop} [Decidable p] (ha : Accepts l s)
    (hl : s.cur.toNat + l.length ≤ 64)
    (hd : decodeByte b (s.took l) =
      if p then (.complete, stored b (s.took l)) else reject .checksum (stored b (s.took l))) :
    decodeAll (l ++ [b]) s =
      if p then onComplete (stored b (s.took l)) else (reject .checksum (stored b (s.took l))).2 := by
  rw [decodeAll_accepts ha hl]
  show receiveByte b (s.took l) = _
  unfold receiveByte
  by_cases hp : p
  · rw [hd, if_pos hp, if_pos hp]
  · rw [hd, if_neg hp, if_neg hp, reject_eq]

/-- What a frame that completes publishes, `u` being the state that holds its bytes (R151). -/
def publishedBy (u : State) : List (Channel × Half) :=
  if u.mayPublish then published (u.be16 6) (u.be16 2) (u.be16 4) u else []

/-- A whole frame received, its last byte deciding `p`: it completes, or warns and is rejected (R153, R203); either way
its bytes are in `FB`. -/
theorem receiveFrame_of_last {q : Bool} {l : List Byte} {b : Byte} {s : State} {p : Prop} [Decidable p]
    (hs : ReadyFor q s) (ha : Accepts l s) (hl : l.length ≤ 63)
    (hd : decodeByte b (s.took l) =
      if p then (.complete, stored b (s.took l)) else reject .checksum (stored b (s.took l))) :
    ∃ t, (receiveFrame (l ++ [b]) s).answer .nothing = t ∧ HoldsFrame s (l ++ [b]) t ∧
      if p then CompletedFrom s (publishedBy (stored b (s.took l))) t else ChecksumFailedFrom s t := by
  have hrecv := receiveFrame_eq (l ++ [b]) s hs.noError hs.queue (by simp)
  rw [decodeAll_of_last ha (by rw [hs.cur_toNat]; omega) hd] at hrecv
  have hholds : ∀ t : State, t.fb = (stored b (s.took l)).fb → HoldsFrame s (l ++ [b]) t := fun t ht => by
    have hread : ∀ i, t.fbAt i = (stored b (s.took l)).fbAt i := fun i => congrArg (Memory.read · i) ht
    exact ⟨fun i hi => by rw [hread, stored_took_fbAt hs hl, if_pos hi],
      fun i hi => by rw [hread, stored_took_fbAt hs hl, if_neg (by omega)]⟩
  refine ⟨_, hrecv, ?_⟩
  by_cases hp : p
  · rw [if_pos hp, if_pos hp]
    refine ⟨hholds _ (onComplete_fb _), ?_⟩
    rw [CompletedFrom, onComplete_eq, hs.queue, hs.noError]
    rfl
  · rw [if_neg hp, if_neg hp, reject_eq]
    refine ⟨hholds _ rfl, ?_⟩
    rw [ChecksumFailedFrom, hs.queue, hs.noError]
    simp [State.reseat, stored, State.took, warns, causeEvent]

theorem publishedBy_eq_nil {u : State} (h : u.fbAt 1 ≠ 0x86 ∨ u.pend = false) : publishedBy u = [] := by
  unfold publishedBy
  rw [if_neg]
  intro hpub
  obtain ⟨hcode, hpend⟩ := (mayPublish_iff u).1 hpub
  rcases h with h | h
  · exact h hcode
  · rw [h] at hpend; nomatch hpend

/-- Settles O48: the checksum decides (`ack_frame_last`), and byte 1 closes PUBLISH's guard. -/
theorem ackFrameReceived : Obligations.AckFrameReceived := by
  intro body chk s hlen hhead hs
  obtain ⟨haccepts, hlast⟩ := ack_frame_last (chk := chk) hlen hs.fbWf hs.shape hs.cur_toNat
  have hl : (0xFF :: body : List Byte).length ≤ 63 := by simp [hlen]
  obtain ⟨t, ht, hholds, houtcome⟩ := receiveFrame_of_last hs haccepts hl hlast
  refine ⟨t, congrArg Host.Outcome.next ht, hholds, ?_⟩
  rwa [publishedBy_eq_nil] at houtcome
  left
  rw [stored_took_fbAt hs hl]
  match body, hlen with
  | b1 :: rest, _ => exact fun h => hhead (congrArg some h)

/-- Settles O50: the checksum field decides (`meas_frame_last`), and `PEND = 0` closes PUBLISH's guard. -/
theorem measurementFrameReceived : Obligations.MeasurementFrameReceived := by
  intro data chk s hlen hs
  obtain ⟨haccepts, hlast⟩ :=
    meas_frame_last (h := highByte chk) (l := lowByte chk) hlen hs.fbWf hs.shape hs.cur_toNat
  obtain ⟨t, ht, -, houtcome⟩ := receiveFrame_of_last hs haccepts (by simp [measHead, hlen]) hlast
  have hframe : measFrame data chk = measHead ++ (data ++ [highByte chk]) ++ [lowByte chk] := by simp [measFrame]
  have hfield : (highByte chk).toNat * 256 + (lowByte chk).toNat = chk.toNat := by
    rw [← joinBytes_toNat, joinBytes_high_low]
  have hpend : (stored (lowByte chk) (s.took (measHead ++ (data ++ [highByte chk])))).pend = false := hs.shape
  rw [publishedBy_eq_nil (.inr hpend), hfield] at houtcome
  exact ⟨t, by rw [← ht, ← hframe]; rfl, houtcome⟩

/-! ### Too few bytes for a measurement frame -/

/-- In the measurement shape no byte before index 31 completes a frame, and the cursor moves on by one at most. -/
theorem decodeByte_meas_early {b : Byte} {s : State} (hp : s.pend = false) (hc : s.cur.toNat < 31) :
    (decodeByte b s).1 ≠ .complete ∧ (decodeByte b s).2.cur.toNat ≤ s.cur.toNat + 1 := by
  rcases decodeByte_cases b s with ⟨hcap, -⟩ | ⟨-, ⟨e, -⟩ | ⟨c, -, e⟩ | ⟨-, ⟨-, hlast, -⟩ | ⟨hack, -⟩⟩⟩
  · omega
  · rw [e]
    exact ⟨fun h => (nomatch h), (cur_add_one (by omega)).le⟩
  · rw [e, reject_eq]
    exact ⟨fun h => (nomatch h), Nat.zero_le _⟩
  · omega
  · rw [hp] at hack; nomatch hack

/-- Fewer bytes than bring the cursor to the end of a measurement frame write the frame buffer, `CUR`, `WARN` and `EVQ`
only: none of them runs ON_COMPLETE. -/
theorem decodeAll_meas_short {l : List Byte} {s : State} (hp : s.pend = false) (hl : s.cur.toNat + l.length ≤ 31) :
    ∃ m c w ev, decodeAll l s = { s with fb := m, cur := c, warn := w, evq := ev } := by
  induction l generalizing s with
  | nil => exact ⟨s.fb, s.cur, s.warn, s.evq, rfl⟩
  | cons b r ih =>
    rw [List.length_cons] at hl
    obtain ⟨hverdict, hcur⟩ := decodeByte_meas_early (b := b) hp (by omega)
    have hframe := decodeByte_frame b s
    have hreceive : receiveByte b s = (decodeByte b s).2 := by
      rcases receiveByte_cases b s with ⟨h, -⟩ | ⟨-, h⟩
      · exact absurd h hverdict
      · exact h
    obtain ⟨m, c, w, ev, hrest⟩ := ih (s := (decodeByte b s).2) (by rw [hframe]; exact hp) (by omega)
    exact ⟨m, c, w, ev, by rw [decodeAll, hreceive, hrest, hframe]⟩

/-- Settles O51: both rows are nine bytes, too few for a measurement frame. -/
theorem ackFrameIsNoMeasurement : Obligations.AckFrameIsNoMeasurement := by
  intro i s hwf hs hi
  obtain ⟨f, hlen, hexec⟩ : ∃ f : List Byte, f.length = 9 ∧ exec i s = .next ((receiveFrame f s).answer .nothing) := by
    obtain ⟨body, chk, rfl⟩ | ⟨pm2_5, pm10_0, pm1_0, chk, rfl⟩ := hi
    · simp only [Instr.wf, Bool.and_eq_true, decide_eq_true_eq] at hwf
      exact ⟨ackFrame body chk, by simp [ackFrame, hwf.1], rfl⟩
    · exact ⟨ackFrame (replyBody pm2_5 pm10_0 pm1_0) chk, rfl, rfl⟩
  obtain ⟨m, c, w, ev, hdecoded⟩ := decodeAll_meas_short (l := f) hs.shape (by rw [hs.cur_toNat, hlen]; decide)
  rw [receiveFrame_eq f s hs.noError hs.queue (by rintro rfl; nomatch hlen), hdecoded] at hexec
  exact ⟨_, hexec, rfl, rfl, rfl, rfl, hs.shape, rfl, rfl, rfl⟩

end Sys2Proof.Machine
end

section
/-! PROOFS. The statements of 40_decode.md: the operations of the decoder one by one, DECODE and its dispatch, the batch
scan CLASSIFY with its closed forms, and the independence of the byte loop from how the bytes are grouped. -/

namespace Sys2Proof.Machine

/-! ### The outcomes of the verdict actions -/

theorem nextVerdict_continueFrame (s : State) : nextVerdict (continueFrame s) = .next (advanced s) := rfl

theorem nextVerdict_completeFrame (s : State) :
    nextVerdict (completeFrame s) = .next { s with ans := .verdict .complete } := rfl

theorem nextVerdict_reject_silent {c : Cause} (hc : warns c = false) (s : State) :
    nextVerdict (reject c s) =
      .next { s with cur := 0, evq := s.evq ++ [causeEvent c], ans := .verdict .reject } := by
  rw [nextVerdict_reject, hc, Bool.or_false]

theorem nextVerdict_reject_warning {c : Cause} (hc : warns c = true) (s : State) :
    nextVerdict (reject c s) = .next (rejectedWithWarning (causeEvent c) s) := by
  rw [nextVerdict_reject, hc, Bool.or_true]; rfl

/-- FramingError (R101, D13): the reject that is silent. -/
theorem nextVerdict_framing (s : State) : nextVerdict (reject .framing s) = .next (rejectedSilently s) :=
  nextVerdict_reject_silent rfl s

/-- The outcome of a test, its two branches told apart by the statement's own condition. -/
theorem nextVerdict_ite {p q : Prop} [Decidable p] [Decidable q] {x y : Verdict × State} {t u : State} (h : p ↔ q)
    (hx : nextVerdict x = .next t) (hy : nextVerdict y = .next u) :
    nextVerdict (if p then x else y) = .next (if q then t else u) := by
  by_cases hp : p
  · rw [if_pos hp, if_pos (h.1 hp), hx]
  · rw [if_neg hp, if_neg fun hq => hp (h.2 hq), hy]

/-! ### The operations one by one -/

/-- Settles O17: each of the three tests one byte. -/
theorem preambleBytesDecide : Obligations.PreambleBytesDecide := fun _ s =>
  ⟨nextVerdict_ite Iff.rfl (nextVerdict_continueFrame s) (nextVerdict_framing s),
    nextVerdict_ite Iff.rfl (nextVerdict_continueFrame s) (nextVerdict_framing s),
    nextVerdict_ite Iff.rfl (nextVerdict_continueFrame s) (nextVerdict_framing s)⟩

/-- Settles O18: all three are CONTINUE. -/
theorem bodyBytesAreAccepted : Obligations.BodyBytesAreAccepted := fun s =>
  ⟨nextVerdict_continueFrame s, nextVerdict_continueFrame s, nextVerdict_continueFrame s⟩

/-- Settles O19: the test is `lengthOk_iff`, and LengthMismatch warns. -/
theorem lengthFieldIsTestedAtIndexThree : Obligations.LengthFieldIsTestedAtIndexThree := fun s =>
  ⟨nextVerdict_continueFrame s,
    nextVerdict_ite (lengthOk_iff s) (nextVerdict_continueFrame s) (nextVerdict_reject_warning rfl s)⟩

/-- Settles O20: the test is `measSumOk_iff`, and ChecksumMismatch warns. -/
theorem measurementChecksumDecides : Obligations.MeasurementChecksumDecides := fun s =>
  nextVerdict_ite (measSumOk_iff s) (nextVerdict_completeFrame s) (nextVerdict_reject_warning rfl s)

/-- Settles O21: the test is `ackSumOk_iff`, and ChecksumMismatch warns. -/
theorem ackChecksumDecides : Obligations.AckChecksumDecides := fun s =>
  nextVerdict_ite (ackSumOk_iff s) (nextVerdict_completeFrame s) (nextVerdict_reject_warning rfl s)

/-- Settles O22: both reject with FramingError. -/
theorem pastTheEndIsRejected : Obligations.PastTheEndIsRejected := fun s =>
  ⟨nextVerdict_framing s, nextVerdict_framing s⟩

/-- Settles O23, cause by cause. -/
theorem rejectTakesTheException : Obligations.RejectTakesTheException := fun s =>
  ⟨nextVerdict_framing s, nextVerdict_reject_warning rfl s, nextVerdict_reject_warning rfl s,
    nextVerdict_reject_silent rfl s⟩

/-- Settles O24. -/
theorem completeAnswersTheVerdict : Obligations.CompleteAnswersTheVerdict := nextVerdict_completeFrame

/-! ### DECODE and its dispatch -/

/-- The bounds check of R100 comes before the store. -/
theorem decodeByte_of_full {b : Byte} {s : State} (h : 64 ≤ s.cur.toNat) : decodeByte b s = reject .overflow s :=
  if_pos h

/-- Settles O15: DECODE past the bounds check is DECODE.OVF, whose cause does not warn. -/
theorem decodeAtCapacityRejects : Obligations.DecodeAtCapacityRejects := by
  intro b s h
  have hovf : exec .decodeOvf s = .next { s with cur := 0, evq := s.evq ++ [.e5], ans := .verdict .reject } :=
    nextVerdict_reject_silent rfl s
  exact ⟨(congrArg nextVerdict (decodeByte_of_full h)).trans hovf, hovf⟩

/-- A row's decoder `d`, on the operand bytes behind the SEL8 word, gives an operation that does what `run` does: with
the received byte as its operand, or with none. -/
def SelectsRow (b : Byte) (d : List Byte → Except DecodeReject Instr) (run : State → Verdict × State) : Prop :=
  ∃ row, (d [b] = .ok row ∨ d [] = .ok row) ∧ ∀ s, exec row s = nextVerdict (run s)

theorem selectsRow_byte {b : Byte} {f : Byte → Instr} {run : State → Verdict × State}
    (h : ∀ s, exec (f b) s = nextVerdict (run s)) : SelectsRow b (takeByte f) run :=
  ⟨f b, .inl rfl, h⟩

theorem selectsRow_none {b : Byte} {i : Instr} {run : State → Verdict × State}
    (h : ∀ s, exec i s = nextVerdict (run s)) : SelectsRow b (takeNone i) run :=
  ⟨i, .inr rfl, h⟩

theorem SelectsRow.ite {p : Prop} [Decidable p] {b : Byte} {d d' : List Byte → Except DecodeReject Instr}
    {run run' : State → Verdict × State} (h : SelectsRow b d run) (h' : SelectsRow b d' run') :
    SelectsRow b (fun rest => if p then d rest else d' rest) (fun s => if p then run s else run' s) := by
  by_cases hp : p
  · simpa only [if_pos hp] using h
  · simpa only [if_neg hp] using h'

/-- The SEL8 word of a cursor in the measurement shape selects the row that DECODE's dispatch runs (R66, R100). -/
theorem decodeSel_meas {i : Nat} (hi : i < 64) (b : Byte) :
    SelectsRow b (decodeSel (BitVec.ofNat 8 i)) (decodeMeasAt i b) := by
  have hcur : (BitVec.ofNat 8 i).toNat % 128 = i := by rw [BitVec.toNat_ofNat]; omega
  have hpend : (BitVec.ofNat 8 i).toNat < 128 := by rw [BitVec.toNat_ofNat]; omega
  unfold decodeSel decodeMeasAt
  simp only [Params.bufCap, hcur, if_pos hpend, if_neg (show ¬ i > 64 by omega), if_neg (show i ≠ 64 by omega)]
  exact .ite (selectsRow_byte fun _ => rfl) <| .ite (selectsRow_byte fun _ => rfl) <|
    .ite (selectsRow_none fun _ => rfl) <| .ite (selectsRow_none fun _ => rfl) <| .ite (selectsRow_none fun _ => rfl) <|
    .ite (selectsRow_none fun _ => rfl) (selectsRow_none fun _ => rfl)

/-- The same in the ack shape, bit 7 set. -/
theorem decodeSel_ack {i : Nat} (hi : i < 64) (b : Byte) :
    SelectsRow b (decodeSel (BitVec.ofNat 8 (128 + i))) (decodeAckAt i b) := by
  have hcur : (BitVec.ofNat 8 (128 + i)).toNat % 128 = i := by rw [BitVec.toNat_ofNat]; omega
  have hpend : ¬ (BitVec.ofNat 8 (128 + i)).toNat < 128 := by rw [BitVec.toNat_ofNat]; omega
  unfold decodeSel decodeAckAt
  simp only [Params.bufCap, hcur, if_neg hpend, if_neg (show ¬ i > 64 by omega), if_neg (show i ≠ 64 by omega)]
  exact .ite (selectsRow_byte fun _ => rfl) <| .ite (selectsRow_none fun _ => rfl) <|
    .ite (selectsRow_none fun _ => rfl) (selectsRow_none fun _ => rfl)

/-- At the capacity the SEL8 word is DECODE.OVF's, in either shape. -/
theorem decode_sel8_of_full {s : State} (h : s.cur.toNat = 64) : decode [fmtSel, s.sel8] = .ok .decodeOvf := by
  rw [State.sel8, h]
  cases s.pend <;> rfl

/-- Settles O14: at the capacity DECODE.OVF, below it the row of the shape (`decodeSel_ack`, `decodeSel_meas`). -/
theorem decodeStoresThenRunsItsRow : Obligations.DecodeStoresThenRunsItsRow := by
  intro b s hle
  by_cases hfull : s.cur.toNat = 64
  · rw [if_pos hfull]
    exact ⟨.decodeOvf, .inr (decode_sel8_of_full hfull), congrArg nextVerdict (decodeByte_of_full hfull.ge)⟩
  · have hlt : s.cur.toNat < 64 := by omega
    have hdecode : exec (.decode b) s = nextVerdict (decodeByte b s) := rfl
    rw [if_neg hfull, hdecode, decodeByte_below b s hlt, State.sel8]
    by_cases hp : s.pend = true
    · rw [if_pos hp, if_pos hp]
      obtain ⟨row, hrow, hexec⟩ := decodeSel_ack hlt b
      exact ⟨row, hrow, (hexec _).symm⟩
    · rw [if_neg hp, if_neg hp, Nat.zero_add]
      obtain ⟨row, hrow, hexec⟩ := decodeSel_meas hlt b
      exact ⟨row, hrow, (hexec _).symm⟩

/-! ### The scan of CLASSIFY -/

/-- CLASSIFY as an outcome: its list of verdicts and nothing else (R116, log 12). -/
theorem exec_classify_iff {k : Shape} {l : List Byte} {s : State} {vs : List Verdict} :
    exec (.classify k l) s = .next { s with ans := .verdicts vs } ↔ classify k l s = vs := by
  constructor
  · intro h
    exact Answer.verdicts.inj (congrArg State.ans (Host.Outcome.next.inj h))
  · rintro rfl
    rfl

/-- What the scan goes on from after a byte. -/
def scanByte (b : Byte) (s : State) : State :=
  if (decodeByte b s).1 = .complete then (decodeByte b s).2.setCur 0 else (decodeByte b s).2

theorem classifyScan_cons (b : Byte) (r : List Byte) (s : State) :
    classifyScan (b :: r) s = (decodeByte b s).1 :: classifyScan r (scanByte b s) := by
  unfold scanByte
  rw [classifyScan]
  rcases decodeByte b s with ⟨v, t⟩
  cases v <;> rfl

theorem classifyScan_length (l : List Byte) (s : State) : (classifyScan l s).length = l.length := by
  induction l generalizing s with
  | nil => rfl
  | cons b r ih => rw [classifyScan_cons, List.length_cons, List.length_cons, ih]

/-- Settles O25: the verdicts are those of any canonical state (`classify_canonical`), State.reset's for one. -/
theorem classifyDependsOnItsBytesOnly : Obligations.ClassifyDependsOnItsBytesOnly := fun k l =>
  ⟨classify k l State.reset, classifyScan_length _ _, fun _ hw =>
    exec_classify_iff.2 (classify_canonical k l hw rfl)⟩

/-- What holds all through a scan in the shape `p` selects: the canonical frame buffer, `CUR <= 31` (R13), `PEND`. -/
structure Scanning (p : Bool) (s : State) : Prop where
  fbWf : Memory.wf s.fb = true
  curBound : s.cur.toNat ≤ 31
  shape : s.pend = p

theorem Scanning.ofCur {p : Bool} {s : State} (hw : Memory.wf s.fb = true) (hc : s.cur = 0) (hp : s.pend = p) :
    Scanning p s :=
  ⟨hw, hc ▸ Nat.zero_le _, hp⟩

theorem Scanning.decodeByte {p : Bool} {s : State} (h : Scanning p s) (b : Byte) : Scanning p (decodeByte b s).2 := by
  obtain ⟨hw, hc⟩ := decodeByte_keeps_bounds b s h.fbWf h.curBound
  exact ⟨hw, hc, by rw [decodeByte_frame]; exact h.shape⟩

theorem Scanning.scanByte {p : Bool} {s : State} (h : Scanning p s) (b : Byte) : Scanning p (scanByte b s) := by
  unfold Machine.scanByte
  split
  · exact .ofCur (h.decodeByte b).fbWf rfl (h.decodeByte b).shape
  · exact h.decodeByte b

/-- A verdict that ends a frame leaves the scan at index 0 (R115). -/
theorem scanByte_cur {b : Byte} {s : State} (h : (decodeByte b s).1 ≠ .cont) : (scanByte b s).cur = 0 := by
  unfold scanByte
  rcases decodeByte_cases b s with ⟨-, e⟩ | ⟨-, ⟨e, -⟩ | ⟨c, -, e⟩ | ⟨e, -⟩⟩ <;> rw [e] at h ⊢
  · rw [reject_eq]; rfl
  · exact absurd rfl h
  · rw [reject_eq]; rfl
  · rfl

/-- At index 0 the scan depends on its bytes only, whatever was decoded before (R11, R117). -/
theorem classifyScan_of_start {p : Bool} {s t : State} (l : List Byte) (hs : Scanning p s) (ht : Scanning p t)
    (hcs : s.cur = 0) (hct : t.cur = 0) : classifyScan l s = classifyScan l t := by
  have hbare : s.bare = ({ t with fb := s.fb } : State).bare := by
    simp only [State.bare, hcs, hct, hs.shape, ht.shape]
  rw [classifyScan_bare hbare]
  refine classifyScan_sameButStale ⟨rfl, fun a ha => ?_⟩ hs.fbWf ht.fbWf ht.curBound
  have ha : a < t.cur.toNat := ha
  rw [hct] at ha
  exact absurd ha (Nat.not_lt_zero a)

/-- R118: what follows a finished frame is scanned as from any state `t` at index 0. -/
theorem classifyScan_append_of_finished {p : Bool} {s t : State} {x y : List Byte} (hs : Scanning p s)
    (ht : Scanning p t) (hct : t.cur = 0) (hne : x ≠ []) (hlast : (classifyScan x s).getLast? ≠ some .cont) :
    classifyScan (x ++ y) s = classifyScan x s ++ classifyScan y t := by
  induction x generalizing s with
  | nil => exact absurd rfl hne
  | cons b r ih =>
    rw [classifyScan_cons] at hlast
    rw [List.cons_append, classifyScan_cons, classifyScan_cons, List.cons_append]
    congr 1
    cases r with
    | nil => exact classifyScan_of_start y (hs.scanByte b) ht (scanByte_cur fun h => hlast (congrArg some h)) hct
    | cons c r =>
      rw [classifyScan_cons, List.getLast?_cons_cons, ← classifyScan_cons] at hlast
      exact ih (hs.scanByte b) (by simp) hlast

/-- The state CLASSIFY scans from: its own `CUR` and `PEND` (R116). -/
def scanStart (k : Shape) (s : State) : State := (s.setCur 0).setPend (k = .ack)

theorem classify_eq_scan (k : Shape) (l : List Byte) (s : State) :
    classify k l s = classifyScan l (scanStart k s) := rfl

theorem scanStart_scanning {k : Shape} {s : State} (hw : Memory.wf s.fb = true) :
    Scanning (k = .ack) (scanStart k s) :=
  .ofCur hw rfl rfl

/-- Settles O29: after a finished frame the scan stands at index 0 (`classifyScan_append_of_finished`). -/
theorem decoderForgetsAFinishedFrame : Obligations.DecoderForgetsAFinishedFrame := by
  intro k a b s va vb hw ha hb hne hlast
  obtain rfl := exec_classify_iff.1 ha
  obtain rfl := exec_classify_iff.1 hb
  have hstart := scanStart_scanning (k := k) hw
  refine exec_classify_iff.2 (classifyScan_append_of_finished hstart hstart rfl ?_ hlast)
  rintro rfl
  exact hne rfl

/-! ### Whole frames -/

theorem byteSum_set {l : List Byte} {i : Nat} (hi : i < l.length) (v : Byte) :
    byteSum (l.set i v) + (l.getD i 0).toNat = byteSum l + v.toNat := by
  induction l generalizing i with
  | nil => exact absurd hi (Nat.not_lt_zero i)
  | cons b r ih =>
    cases i with
    | zero => simp only [List.set_cons_zero, List.getD_cons_zero, byteSum_cons]; omega
    | succ i =>
      have := ih (Nat.lt_of_succ_lt_succ hi)
      simp only [List.set_cons_succ, List.getD_cons_succ, byteSum_cons]
      omega

/-- One changed byte changes the sum, modulo 256 too (R119). -/
theorem byteSum_set_mod_ne {l : List Byte} {i : Nat} {v : Byte} (hi : i < l.length) (hv : v ≠ l.getD i 0) :
    byteSum (l.set i v) % 256 ≠ byteSum l % 256 := by
  have hsum := byteSum_set hi v
  have hne : v.toNat ≠ (l.getD i 0).toNat := fun h => hv (BitVec.eq_of_toNat_eq h)
  have := v.isLt
  have := (l.getD i 0).isLt
  omega

/-- The verdicts of a frame whose byte `n`, the last one, decides. -/
def frameVerdicts (n : Nat) (v : Verdict) : List Verdict := List.replicate n .cont ++ [v]

theorem frameVerdicts_inj {n : Nat} {v w : Verdict} : frameVerdicts n v = frameVerdicts n w ↔ v = w := by
  simp [frameVerdicts]

/-- Accepted bytes, and a last one that decides `p`. -/
theorem classify_of_last {k : Shape} {l : List Byte} {b : Byte} {s u : State} {p : Prop} [Decidable p]
    (ha : Accepts l (scanStart k s)) (hl : l.length ≤ 64)
    (hd : decodeByte b ((scanStart k s).took l) = if p then (.complete, u) else reject .checksum u) :
    classify k (l ++ [b]) s = frameVerdicts l.length (if p then .complete else .reject) := by
  have hlen : (scanStart k s).cur.toNat + l.length ≤ 64 := (Nat.zero_add l.length).symm ▸ hl
  rw [classify_eq_scan, classifyScan_accepts ha hlen, classifyScan_cons, hd]
  by_cases hp : p
  · rw [if_pos hp, if_pos hp]; rfl
  · rw [if_neg hp, if_neg hp, reject_eq]; rfl

/-- The verdicts of a frame that starts as an ack-shape frame does: its sum decides (R110). -/
theorem classify_ack_frame {g : List Byte} {s : State} (hw : Memory.wf s.fb = true) (hg : g.length = 8) :
    classify .ack (0xFF :: g) s = frameVerdicts 8 (if (255 + byteSum g) % 256 = 255 then .complete else .reject) := by
  obtain rfl | ⟨body, chk, rfl⟩ := List.eq_nil_or_concat' g
  · nomatch hg
  · have hbody : body.length = 7 := by simpa using hg
    obtain ⟨haccepts, hlast⟩ := ack_frame_last (s := scanStart .ack s) (chk := chk) hbody hw rfl rfl
    rw [← List.cons_append, classify_of_last haccepts (by simp [hbody]) hlast, List.length_cons, hbody]
    simp only [byteSum_append, byteSum_cons, byteSum_nil, Nat.add_zero, Nat.add_assoc]

/-- The verdicts of a frame with a measurement frame's header: its sum decides (R106). -/
theorem classify_meas_frame {data : List Byte} {h l : Byte} {s : State} (hw : Memory.wf s.fb = true)
    (hdata : data.length = 26) :
    classify .meas (measHead ++ (data ++ [h, l])) s =
      frameVerdicts 31 (if 171 + byteSum data = h.toNat * 256 + l.toNat then .complete else .reject) := by
  obtain ⟨haccepts, hlast⟩ := meas_frame_last (s := scanStart .meas s) (h := h) (l := l) hdata hw rfl rfl
  have hframe : measHead ++ (data ++ [h, l]) = measHead ++ (data ++ [h]) ++ [l] := by simp
  have hlen : (measHead ++ (data ++ [h])).length = 31 := by simp [measHead, hdata]
  rw [hframe, classify_of_last haccepts (by omega) hlast, hlen]

/-! ### Only a right header is accepted -/

theorem decodeByte_of_cont {b : Byte} {s : State} (h : (decodeByte b s).1 = .cont) :
    decodeByte b s = (.cont, s.took [b]) := by
  rcases decodeByte_cases b s with ⟨-, e⟩ | ⟨-, ⟨e, -⟩ | ⟨c, -, e⟩ | ⟨e, -⟩⟩
  · rw [e, reject_eq] at h; nomatch h
  · exact e
  · rw [e, reject_eq] at h; nomatch h
  · rw [e] at h; nomatch h

/-- Bytes whose verdicts are all Continue are accepted. -/
theorem accepts_of_classifyScan {l r : List Byte} {s : State} {vs : List Verdict}
    (h : classifyScan (l ++ r) s = List.replicate l.length .cont ++ vs) : Accepts l s := by
  induction l generalizing s with
  | nil => trivial
  | cons b l ih =>
    rw [List.cons_append, classifyScan_cons, List.length_cons, List.replicate_succ, List.cons_append] at h
    obtain ⟨hverdict, hrest⟩ := List.cons.inj h
    have hcont := decodeByte_of_cont hverdict
    have hscan : scanByte b s = s.took [b] := by
      unfold scanByte
      rw [hcont]; rfl
    exact ⟨hcont, ih (hscan ▸ hrest)⟩

/-- In the middle of accepted bytes DECODE continues. -/
theorem Accepts.continues {l r : List Byte} {b : Byte} {s : State} (h : Accepts (l ++ b :: r) s)
    (hl : s.cur.toNat + l.length ≤ 64) : decodeByte b (s.took l) = (.cont, (s.took l).took [b]) := by
  induction l generalizing s with
  | nil => rw [took_nil]; exact h.1
  | cons c l ih =>
    rw [List.length_cons] at hl
    rw [took_cons (by omega)]
    refine ih h.2 ?_
    rw [took_cur (by simp; omega)]
    simp; omega

/-- A test that answered Continue was passed. -/
theorem cond_of_cont {p : Prop} [Decidable p] {c : Cause} {s t : State}
    (h : (if p then continueFrame s else reject c s) = (.cont, t)) : p := by
  by_contra hp
  rw [if_neg hp, reject_eq] at h
  nomatch congrArg Prod.fst h

theorem ack_start_of_accepts {b : Byte} {r : List Byte} {s : State} (hs : Scanning true s) (hc : s.cur = 0)
    (h : Accepts (b :: r) s) : b = 0xFF := by
  have hcont := h.1
  rw [decodeByte_below b s (by rw [hc]; decide), if_pos hs.shape, hc] at hcont
  exact cond_of_cont hcont

/-- The dispatch that accepted the byte behind `l`, the frame having started at index 0 (R100). -/
theorem Accepts.decodeMeasAt {l r : List Byte} {b : Byte} {s : State} (h : Accepts (l ++ b :: r) s)
    (hs : Scanning false s) (hc : s.cur = 0) (hl : l.length < 64) :
    decodeMeasAt l.length b ((s.took l).storeFb l.length b) = (.cont, (s.took l).took [b]) := by
  have hzero : s.cur.toNat = 0 := by rw [hc]; rfl
  have hcur : (s.took l).cur.toNat = l.length := by rw [took_cur (by omega)]; omega
  have hpend : ¬ (s.took l).pend = true := by
    show ¬ s.pend = true
    rw [hs.shape]; decide
  rw [← h.continues (by omega), decodeByte_below _ _ (by omega), if_neg hpend, hcur]

/-- R101 to R104: the four tests of the header. -/
theorem meas_head_of_accepts {b0 b1 b2 b3 : Byte} {r : List Byte} {s : State} (hs : Scanning false s) (hc : s.cur = 0)
    (h : Accepts (b0 :: b1 :: b2 :: b3 :: r) s) : [b0, b1, b2, b3] = measHead := by
  have hzero : s.cur.toNat = 0 := by rw [hc]; rfl
  have h0 : b0 = Params.pre0 := cond_of_cont (Accepts.decodeMeasAt (l := []) h hs hc (by simp))
  have h1 : b1 = Params.pre1 := cond_of_cont (Accepts.decodeMeasAt (l := [b0]) h hs hc (by simp))
  have h3 : (((s.took [b0, b1, b2]).storeFb 3 b3).lengthOk) = true :=
    cond_of_cont (Accepts.decodeMeasAt (l := [b0, b1, b2]) h hs hc (by simp))
  have hread : (s.took [b0, b1, b2]).fbAt 2 = b2 := frame_reads hs.fbWf hzero (by simp) 2
  have hwf : Memory.wf (s.took [b0, b1, b2]).fb = true := took_wf hs.fbWf (by rw [hzero]; simp)
  rw [lengthOk_iff, State.storeFb_fbAt_other (by decide), hread, State.storeFb_fbAt_same hwf] at h3
  have hb2 : b2 = 0x00 := BitVec.eq_of_toNat_eq (by show b2.toNat = 0; have := b3.isLt; omega)
  have hb3 : b3 = 0x1C := BitVec.eq_of_toNat_eq (by show b3.toNat = 28; have := b3.isLt; omega)
  rw [h0, h1, hb2, hb3]
  rfl

/-! ### The closed forms of R116 -/

/-- What decides Complete: a test and no other. -/
theorem frameVerdicts_ite_eq_complete {n : Nat} {p : Prop} [Decidable p] :
    frameVerdicts n (if p then .complete else .reject) = frameVerdicts n .complete ↔ p := by
  rw [frameVerdicts_inj]
  simp

/-- Nine bytes complete in the ack shape exactly when the start byte and the sum are right. -/
theorem classify_ack_complete_iff {b : Byte} {g : List Byte} {s : State} (hw : Memory.wf s.fb = true)
    (hg : g.length = 8) :
    classify .ack (b :: g) s = frameVerdicts 8 .complete ↔ b = 0xFF ∧ (255 + byteSum g) % 256 = 255 := by
  constructor
  · intro h
    obtain rfl : b = 0xFF := ack_start_of_accepts (scanStart_scanning (k := .ack) hw) rfl
      (accepts_of_classifyScan (l := [b]) (r := g) h)
    rw [classify_ack_frame hw hg, frameVerdicts_ite_eq_complete] at h
    exact ⟨rfl, h⟩
  · rintro ⟨rfl, h⟩
    rw [classify_ack_frame hw hg, if_pos h]

/-- Thirty-two bytes complete in the measurement shape exactly when the header and the sum are right. -/
theorem classify_meas_complete_iff {b0 b1 b2 b3 h l : Byte} {data : List Byte} {s : State}
    (hw : Memory.wf s.fb = true) (hdata : data.length = 26) :
    classify .meas ([b0, b1, b2, b3] ++ (data ++ [h, l])) s = frameVerdicts 31 .complete ↔
      [b0, b1, b2, b3] = measHead ∧ 171 + byteSum data = h.toNat * 256 + l.toNat := by
  constructor
  · intro hv
    have hhead : [b0, b1, b2, b3] = measHead := meas_head_of_accepts (scanStart_scanning (k := .meas) hw) rfl
      (accepts_of_classifyScan (l := [b0, b1, b2, b3]) hv)
    rw [hhead, classify_meas_frame hw hdata, frameVerdicts_ite_eq_complete] at hv
    exact ⟨hhead, hv⟩
  · rintro ⟨hhead, hsum⟩
    rw [hhead, classify_meas_frame hw hdata, if_pos hsum]

/-- Settles O27: the frame is its start byte and eight more. -/
theorem ackFrameCompletesIff : Obligations.AckFrameCompletesIff := by
  intro f s hlen hw
  refine ⟨_, exec_classify_iff.2 rfl, ?_⟩
  match f, hlen with
  | [b0, b1, b2, b3, b4, b5, b6, b7, b8], _ =>
    refine (classify_ack_complete_iff hw rfl).trans (and_congr_right fun hb => ?_)
    have hstart : b0.toNat = 255 := congrArg BitVec.toNat hb
    have := b8.isLt
    simp only [List.take, List.getD_cons_succ, List.getD_cons_zero, byteSum_cons, byteSum_nil, hstart]
    omega

/-- A measurement-shape frame by its four header bytes and `measParts_append`'s other parts. -/
theorem measFrame_parts {f : List Byte} (hlen : f.length = 32) :
    ∃ b0 b1 b2 b3 h l data, data.length = 26 ∧ f = [b0, b1, b2, b3] ++ (data ++ [h, l]) := by
  refine ⟨f.getD 0 0, f.getD 1 0, f.getD 2 0, f.getD 3 0, f.getD 30 0, f.getD 31 0, (f.drop 4).take 26,
    by simp [hlen], ?_⟩
  have hparts := measParts_append hlen
  match f, hlen with
  | _ :: _ :: _ :: _ :: _, _ => exact hparts.symm

theorem byteSum_measHead : byteSum measHead = 171 := rfl

/-- Settles O26: the frame by its parts; the header's own sum is 171, and 30 bytes cannot wrap 16 bits. -/
theorem measurementFrameCompletesIff : Obligations.MeasurementFrameCompletesIff := by
  intro f s hlen hw
  refine ⟨_, exec_classify_iff.2 rfl, ?_⟩
  obtain ⟨b0, b1, b2, b3, h, l, data, hdata, rfl⟩ := measFrame_parts hlen
  have htake : ([b0, b1, b2, b3] ++ (data ++ [h, l])).take 30 = [b0, b1, b2, b3] ++ data := by
    rw [← List.append_assoc]
    exact List.take_left' (by simp [hdata])
  have h30 : ([b0, b1, b2, b3] ++ (data ++ [h, l])).getD 30 0 = h := by
    rw [← List.append_assoc, List.getD_append_right _ _ _ _ (by simp [hdata])]
    simp [hdata]
  have h31 : ([b0, b1, b2, b3] ++ (data ++ [h, l])).getD 31 0 = l := by
    rw [← List.append_assoc, List.getD_append_right _ _ _ _ (by simp [hdata])]
    simp [hdata]
  have hhead : ∀ q : Prop,
      [b0, b1, b2, b3] = measHead ∧ q ↔ b0 = 0x42 ∧ b1 = 0x4D ∧ b2 = 0x00 ∧ b3 = 0x1C ∧ q := by
    intro q
    show [b0, b1, b2, b3] = [0x42, 0x4D, 0x00, 0x1C] ∧ q ↔ _
    simp [and_assoc]
  have hle := byteSum_le data
  rw [htake, h30, h31, byteSum_append]
  refine (classify_meas_complete_iff hw hdata).trans ((and_congr_right fun hmeas => ?_).trans (hhead _))
  rw [hmeas, byteSum_measHead]
  omega

/-- R119 in the ack shape. -/
theorem classify_ack_changed {f : List Byte} {i : Nat} {v : Byte} {s : State} (hw : Memory.wf s.fb = true)
    (h : classify .ack f s = frameVerdicts 8 .complete) (hi : 1 ≤ i ∧ i ≤ 8) (hv : v ≠ f.getD i 0) :
    classify .ack (f.set i v) s = frameVerdicts 8 .reject := by
  have hlen : f.length = 9 := by rw [← classifyScan_length f (scanStart .ack s), ← classify_eq_scan, h]; rfl
  obtain ⟨hi1, hi8⟩ := hi
  match f, i, hlen, hi1 with
  | b :: g, j + 1, hlen, _ =>
    have hg : g.length = 8 := Nat.succ.inj hlen
    obtain ⟨rfl, hsum⟩ := (classify_ack_complete_iff hw hg).1 h
    have hchanged := byteSum_set_mod_ne (show j < g.length by omega) hv
    rw [List.set_cons_succ, classify_ack_frame hw (by rw [List.length_set, hg]), if_neg (by omega)]

/-- R119 in the measurement shape. -/
theorem classify_meas_changed {f : List Byte} {i : Nat} {v : Byte} {s : State} (hw : Memory.wf s.fb = true)
    (h : classify .meas f s = frameVerdicts 31 .complete) (hi : 4 ≤ i ∧ i ≤ 29) (hv : v ≠ f.getD i 0) :
    classify .meas (f.set i v) s = frameVerdicts 31 .reject := by
  have hlen : f.length = 32 := by rw [← classifyScan_length f (scanStart .meas s), ← classify_eq_scan, h]; rfl
  obtain ⟨b0, b1, b2, b3, hb, lb, data, hdata, rfl⟩ := measFrame_parts hlen
  obtain ⟨hhead, hsum⟩ := (classify_meas_complete_iff hw hdata).1 h
  obtain ⟨j, rfl⟩ := Nat.exists_eq_add_of_le' hi.1
  have hj : j < data.length := by omega
  have hset : ([b0, b1, b2, b3] ++ (data ++ [hb, lb])).set (j + 4) v = [b0, b1, b2, b3] ++ (data.set j v ++ [hb, lb]) :=
    congrArg ([b0, b1, b2, b3] ++ ·) (List.set_append_left _ _ hj)
  have hold : ([b0, b1, b2, b3] ++ (data ++ [hb, lb])).getD (j + 4) 0 = data.getD j 0 := List.getD_append _ _ _ _ hj
  have hchanged := byteSum_set_mod_ne hj (hold ▸ hv)
  rw [hset, hhead, classify_meas_frame hw (by rw [List.length_set, hdata]), if_neg (by omega)]

/-- Settles O28, shape by shape. -/
theorem oneChangedByteFailsTheChecksum : Obligations.OneChangedByteFailsTheChecksum := by
  intro k f i v s hw h hi hv
  rw [exec_classify_iff] at h ⊢
  cases k with
  | meas => exact classify_meas_changed hw h hi hv
  | ack => exact classify_ack_changed hw h hi hv

/-! ### The encoder's frame -/

/-- R63: the checksum byte brings the sum of a command frame to 255. -/
theorem byteSum_commandFrame (cmd data : Byte) : byteSum (commandFrame cmd data) % 256 = 255 := by
  rw [commandFrame, byteSum_append, byteSum_cons, byteSum_nil, chk8_toNat]
  omega

/-- Settles O13: an encoded frame is an ack-shape frame whose sum is right (R120), and it stays in `FB` once received. -/
theorem encodedFrameDecodesAsAck : Obligations.EncodedFrameDecodesAsAck := by
  intro cmd data s hw
  refine ⟨commandFrame cmd data, rfl, rfl, exec_classify_iff.2 ?_, fun hp hc hq he => ?_⟩
  · exact (classify_ack_frame hw rfl).trans (congrArg _ (if_pos (byteSum_commandFrame cmd data)))
  · have hs : ReadyFor true { s with rxq := [] } := ⟨hw, hp, hc, rfl, he⟩
    obtain ⟨haccepts, hlast⟩ := ack_frame_last (body := [0x01, cmd, data, 0, 0, 0, 0])
      (chk := chk8 (commandHead cmd data)) rfl hs.fbWf hs.shape hs.cur_toNat
    obtain ⟨t, ht, hholds, -⟩ := receiveFrame_of_last hs haccepts (by simp) hlast
    have hloop : receiveFrame (commandFrame cmd data) { s with rxq := [] } = rxLoop s := by rw [← hq]; rfl
    refine ⟨t, ?_, hholds⟩
    rw [← ht]
    exact congrArg (fun u => Host.Outcome.next (State.answer u .nothing)) hloop.symm

/-! ### The byte loop -/

/-- RXLOOP over the bytes `q`, with no read failure to come. -/
theorem exec_rxloop_offered {s : State} (he : s.rxErr = none) (q : List Byte) :
    exec .rxloop { s with rxq := q } =
      .next ((decodeAll q s).reseat (if q = [] then s.lbt else s.now) [] none s.script .nothing) := by
  have hmark : readMark { s with rxq := q } = if q = [] then s.lbt else s.now := by
    simp [readMark, State.takesByte, he]
  have hseat : ({ s with rxq := q } : State) = s.reseat s.lbt q s.rxErr s.script s.ans := rfl
  refine (exec_rxloop_eq { s with rxq := q } he).trans ?_
  rw [hmark, hseat, decodeAll_reseat]
  rfl

theorem decodeAll_now (q : List Byte) (s : State) : (decodeAll q s).now = s.now := by
  induction q generalizing s with
  | nil => rfl
  | cons b r ih =>
    obtain ⟨-, -, -, -, -, -, -, -, hnow, -⟩ := receiveByte_frame b s
    exact (ih _).trans hnow

/-- Settles O46: the bytes are decoded in one order either way (`decodeAll_append`), and the stamp is the same. -/
theorem groupingOfBytesIsIrrelevant : Obligations.GroupingOfBytesIsIrrelevant := by
  intro s a b he
  refine ⟨_, exec_rxloop_offered he a, ?_⟩
  rw [exec_rxloop_offered he, exec_rxloop_offered rfl, decodeAll_reseat, decodeAll_append]
  have hmark : (if a ++ b = [] then s.lbt else s.now) =
      if b = [] then (if a = [] then s.lbt else s.now) else (decodeAll a s).now := by
    rw [decodeAll_now]
    cases a <;> cases b <;> simp
  rw [hmark]
  rfl

end Sys2Proof.Machine
end

section
/-! PROOFS. The statements of 41_encode.md: ENCODE, SEND and the commands over it, INIT, and the history of the commands
that whole runs send. -/

namespace Sys2Proof.Machine

/-! ### The frames sent -/

theorem send_eq (cmd data : Byte) (s : State) :
    send cmd data s =
      { s with txq := s.txq ++ commandFrame cmd data, pend := if cmd = Params.cmdTrigger then true else s.pend } := by
  unfold send
  split <;> rfl

/-- Settles O9: the frame in closed form, with R73's checksum. -/
theorem encodeAnswersTheFrame : Obligations.EncodeAnswersTheFrame := by
  intro cmd data s
  rw [← commandFrame_eq]
  rfl

/-- Settles O10, by the one equation of SEND. -/
theorem sendAppendsTheFrame : Obligations.SendAppendsTheFrame := by
  intro cmd data s
  rw [← commandFrame_eq]
  exact congrArg (fun t => Host.Outcome.next (State.answer t .nothing)) (send_eq cmd data s)

/-- Settles O11: each command is SEND of its pair (R133 to R136). -/
theorem commandsSendTheirFrames : Obligations.CommandsSendTheirFrames := fun s =>
  ⟨sendAppendsTheFrame 0x78 0x40 s, sendAppendsTheFrame 0x86 0x00 s, sendAppendsTheFrame 0xA7 0x00 s,
    sendAppendsTheFrame 0xA7 0x01 s⟩

/-- Settles O12: SET_MODE_QA is SEND of its pair (R132), and INIT's mode is R29's comparison. -/
theorem initSendsTheModeCommandOnce : Obligations.InitSendsTheModeCommandOnce := by
  intro s
  refine ⟨sendAppendsTheFrame 0x78 0x41 s, ?_⟩
  have hinit : exec .init s = .next ((initOp s).answer .tickGoesOn) := rfl
  rw [hinit, initOp_eq]
  simp only [cyc_iff]
  rfl

/-! ### The history of commands -/

theorem wire_append_singleton (cs : List Command) (c : Command) : wire (cs ++ [c]) = wire cs ++ c.bytes := by
  simp [wire]

/-- After the first tick: in cycling mode `TXQ` is a history that stands in the relation `H` to `DS`, in continuous mode
SET_MODE_ACTIVE alone. -/
structure State.Told (H : DutyState → List Command → Prop) (s : State) : Prop where
  started : s.init = true
  cycling : s.cyc = true → ∃ cs, H s.ds cs ∧ s.txq = wire cs
  continuous : s.cyc = false → s.txq = Command.bytes .modeActive

theorem State.sentAsTold_iff_told {s : State} (hi : s.init = true) : s.SentAsTold ↔ s.Told CycleHistory := by
  rw [State.SentAsTold, if_pos hi]
  split
  case isTrue hc => exact ⟨fun h => ⟨hi, fun _ => h, fun hn => nomatch hc.symm.trans hn⟩, fun h => h.cycling hc⟩
  case isFalse hc =>
    exact ⟨fun h => ⟨hi, fun hn => absurd hn hc, fun _ => h⟩, fun h => h.continuous (Bool.eq_false_of_not_eq_true hc)⟩

section Told
variable {H H' : DutyState → List Command → Prop} {s : State}

/-- In continuous mode the relation does not matter. -/
theorem State.Told.imp (h : s.Told H) (himp : s.cyc = true → ∀ cs, H s.ds cs → H' s.ds cs) : s.Told H' where
  started := h.started
  cycling hc := by
    obtain ⟨cs, hcs, htx⟩ := h.cycling hc
    exact ⟨cs, himp hc cs hcs, htx⟩
  continuous := h.continuous

/-- One more command sent in cycling mode. -/
theorem State.Told.sent {t : State} (h : s.Told H) (hc : s.cyc = true) (c : Command) (hi : t.init = s.init)
    (hcyc : t.cyc = s.cyc) (htx : t.txq = s.txq ++ c.bytes) (hstep : ∀ cs, H s.ds cs → H' t.ds (cs ++ [c])) :
    t.Told H' where
  started := hi.trans h.started
  cycling _ := by
    obtain ⟨cs, hcs, hold⟩ := h.cycling hc
    exact ⟨cs ++ [c], hstep cs hcs, by rw [htx, hold, wire_append_singleton]⟩
  continuous hn := nomatch hc.symm.trans (hcyc.symm.trans hn)

end Told

/-- INIT sends the first command (R161) where nothing was sent before, `DS` then being `Idle`. -/
theorem initOp_told {s : State} (h : s.SentAsTold) (hidle : s.init = false → s.ds = .idle) :
    (initOp s).Told CycleHistory := by
  by_cases hi : s.init = true
  · rw [initOp, if_pos hi]
    exact (State.sentAsTold_iff_told hi).1 h
  · rw [State.SentAsTold, if_neg hi] at h
    have hds := hidle (Bool.eq_false_of_not_eq_true hi)
    rw [initOp_eq, if_neg hi, h]
    refine ⟨rfl, fun hc => ⟨[.modeQa], ?_, ?_⟩, fun hc => ?_⟩
    · rw [hds]; exact .start
    · exact if_pos hc
    · exact if_neg (Bool.eq_false_iff.1 hc)

/-- POWER_ON leaves `Idle` for `Stabilising` (R162). -/
theorem dutyIdle_told {s : State} (h : s.Told CycleHistory) (hc : s.cyc = true) (hd : s.ds = .idle) :
    (dutyIdle s).Told CycleHistory := by
  rw [dutyIdle_eq]
  split
  · exact h
  · exact h.sent hc .powerOn rfl rfl rfl fun _ hcs => .on (hd ▸ hcs)

/-- TRIGGER leaves `Stabilising` for `Waiting` (R163). -/
theorem dutyStab_told {s : State} (h : s.Told CycleHistory) (hc : s.cyc = true) (hd : s.ds = .stabilising) :
    (dutyStab s).Told CycleHistory := by
  rw [dutyStab_eq]
  split
  · exact h
  · exact h.sent hc .trigger rfl rfl rfl fun _ hcs => .asked (hd ▸ hcs)

/-! ### Frames that complete -/

/-- The histories while bytes are read in cycling mode: no frame has completed since TRIGGER, or each that did was
answered by STANDBY (R165). -/
inductive Reading : DutyState → List Command → Prop where
  | waiting {cs : List Command} : CycleHistory .waiting cs → Reading .waiting cs
  | finished {l : List Command} : CycleHistory .idle (l ++ [.standby]) → Reading .idle (l ++ [.standby])

theorem Reading.history {d : DutyState} {cs : List Command} (h : Reading d cs) : CycleHistory d cs := by
  cases h with
  | waiting h => exact h
  | finished h => exact h

/-- A completed frame: the first one ends the cycle, a further one repeats STANDBY. -/
theorem Reading.standby {d : DutyState} {cs : List Command} (h : Reading d cs) : Reading .idle (cs ++ [.standby]) := by
  cases h with
  | waiting h => exact .finished h.done
  | finished h => exact .finished (List.append_assoc _ _ _ ▸ h.again)

theorem onComplete_told {s : State} (h : s.Told Reading) : (onComplete s).Told Reading := by
  rw [onComplete_eq]
  cases hc : s.cyc with
  | true => exact h.sent hc .standby rfl rfl rfl fun _ hcs => hcs.standby
  | false => exact ⟨h.started, fun hn => (nomatch hc.symm.trans hn), fun _ => h.continuous hc⟩

theorem receiveByte_told (b : Byte) {s : State} (h : s.Told Reading) : (receiveByte b s).Told Reading := by
  have hdecoded : (decodeByte b s).2.Told Reading := by
    rw [decodeByte_frame]
    exact ⟨h.started, h.cycling, h.continuous⟩
  rcases receiveByte_cases b s with ⟨-, e⟩ | ⟨-, e⟩ <;> rw [e]
  · exact onComplete_told hdecoded
  · exact hdecoded

theorem stale_told {s : State} (h : s.Told Reading) : (stale s).Told Reading := by
  rw [stale_eq]
  split
  · exact ⟨h.started, h.cycling, h.continuous⟩
  · exact h

theorem readBytes_told {s : State} (h : s.Told Reading) : (readBytes s).Told CycleHistory :=
  (readBytes_keeps (P := State.Told Reading) (fun _ => stale_told)
    (fun _ _ ht => ⟨ht.started, ht.cycling, ht.continuous⟩) (fun _ _ _ ht => ⟨ht.started, ht.cycling, ht.continuous⟩)
    (fun b _ => receiveByte_told b) s h).imp fun _ _ hcs => hcs.history

/-- TICK branch by branch; in cycling mode bytes are read in `Waiting` only (R164, D9). -/
theorem tick_told {s : State} (hinv : s.Inv) (h : s.SentAsTold) : (tick s).Told CycleHistory := by
  have h0 := initOp_told h hinv.idleBeforeFirstTick
  have hds := initOp_ds s
  have hcyc : (initOp s).cyc = s.cyc := by rw [initOp_eq]; rfl
  rcases tick_cases s with ⟨hc, hd, e⟩ | ⟨hc, hd, e⟩ | ⟨-, hd, e⟩ | ⟨-, -, e⟩ | ⟨hc, -, e⟩ <;> rw [e]
  · exact dutyIdle_told h0 (hcyc.trans hc) (hds.trans hd)
  · exact dutyStab_told h0 (hcyc.trans hc) (hds.trans hd)
  · have hwaiting := hds.trans hd
    exact readBytes_told (h0.imp fun _ _ hcs => hwaiting ▸ .waiting (hwaiting ▸ hcs))
  · exact h0
  · exact readBytes_told (h0.imp fun hn => nomatch hc.symm.trans (hcyc.symm.trans hn))

/-- Settles O56: a step is a TICK, which leaves a history in step with `DS`, or moves inputs only. -/
theorem everyStepSendsAsTold : Obligations.EveryStepSendsAsTold := by
  intro s t hinv hsent hst
  obtain ⟨rest, hrest, ⟨n, rfl⟩ | ⟨q, e, rfl⟩⟩ := step_cases hinv.moves hst
  · have ht := tick_told (hinv.withInputs n s.lbt s.rxq s.rxErr s.ans hrest) hsent
    exact (State.sentAsTold_iff_told ht.started).2 ht
  · exact hsent

end Sys2Proof.Machine
end

section
/-! PROOFS. The statements of 42_measurement_parser.md: EXTRACT, PUBLISH and ON_COMPLETE alone, the reply to TRIGGER
received as a frame, and what a step of a whole run can publish. -/

namespace Sys2Proof.Machine

/-! ### The operations alone -/

/-- Settles O30: a 16-bit field is its two bytes (`joinBytes_toNat`). -/
theorem extractReadsThreeFields : Obligations.ExtractReadsThreeFields := fun s =>
  ⟨s.be16 6, s.be16 2, s.be16 4, rfl, joinBytes_toNat _ _, joinBytes_toNat _ _, joinBytes_toNat _ _⟩

theorem published_eq_pairs (pm1_0 pm2_5 pm10_0 : Half) (s : State) :
    published pm1_0 pm2_5 pm10_0 s = pairs s pm1_0 pm2_5 pm10_0 := rfl

/-- `PUBQ` after PUBLISH, the guard of R151 written out. -/
theorem pubq_append_published (pm1_0 pm2_5 pm10_0 : Half) (s : State) :
    s.pubq ++ (if s.mayPublish then published pm1_0 pm2_5 pm10_0 s else []) =
      if s.fbAt 1 = 0x86 ∧ s.pend = true then s.pubq ++ pairs s pm1_0 pm2_5 pm10_0 else s.pubq := by
  simp only [mayPublish_iff, published_eq_pairs]
  split
  · rfl
  · exact List.append_nil _

/-- Settles O31, by the one equation of PUBLISH. -/
theorem publishHasItsGuard : Obligations.PublishHasItsGuard := by
  intro pm1_0 pm2_5 pm10_0 s
  have hexec : exec (.publish pm1_0 pm2_5 pm10_0) s =
      .next ((publishReadings pm1_0 pm2_5 pm10_0 s).answer .nothing) := rfl
  rw [hexec, publishReadings_eq, pubq_append_published]
  rfl

/-- Settles O32, by the one equation of ON_COMPLETE; cycling mode is R29's comparison. -/
theorem onCompleteInOrder : Obligations.OnCompleteInOrder := by
  intro s
  refine ⟨s.be16 6, s.be16 2, s.be16 4, rfl, ?_⟩
  have hexec : exec .onComplete s = .next ((onComplete s).answer .nothing) := rfl
  rw [hexec, onComplete_eq, pubq_append_published]
  simp only [cyc_iff]
  rfl

/-! ### The reply to TRIGGER -/

theorem byteSum_replyBody (pm2_5 pm10_0 pm1_0 : Half) :
    byteSum (replyBody pm2_5 pm10_0 pm1_0) =
      0x86 + pm2_5.toNat / 256 + pm2_5.toNat % 256 + pm10_0.toNat / 256 + pm10_0.toNat % 256 +
        pm1_0.toNat / 256 + pm1_0.toNat % 256 := by
  have hcode : Params.replyCode.toNat = 0x86 := rfl
  simp only [replyBody, byteSum_cons, byteSum_nil, highByte_toNat, lowByte_toNat, hcode]
  omega

/-- A buffer that holds a reply while one is awaited publishes the reply's readings (R150, R151). -/
theorem publishedBy_reply {u : State} {pm2_5 pm10_0 pm1_0 : Half} (hpend : u.pend = true)
    (hread : ∀ i, i < 7 → u.fbAt (i + 1) = (replyBody pm2_5 pm10_0 pm1_0).getD i 0) :
    publishedBy u = pairs u pm1_0 pm2_5 pm10_0 := by
  have hpub : u.mayPublish = true := (mayPublish_iff u).2 ⟨hread 0 (by decide), hpend⟩
  have hpm2_5 : u.be16 2 = pm2_5 := by
    rw [State.be16, hread 1 (by decide), hread 2 (by decide)]
    exact joinBytes_high_low pm2_5
  have hpm10_0 : u.be16 4 = pm10_0 := by
    rw [State.be16, hread 3 (by decide), hread 4 (by decide)]
    exact joinBytes_high_low pm10_0
  have hpm1_0 : u.be16 6 = pm1_0 := by
    rw [State.be16, hread 5 (by decide), hread 6 (by decide)]
    exact joinBytes_high_low pm1_0
  rw [publishedBy, if_pos hpub, hpm1_0, hpm2_5, hpm10_0, published_eq_pairs]

/-- Settles O49: the checksum decides (`ack_frame_last`), and the buffer then holds the reply (`publishedBy_reply`). -/
theorem replyFrameIsPublished : Obligations.ReplyFrameIsPublished := by
  intro pm2_5 pm10_0 pm1_0 chk s hs
  obtain ⟨haccepts, hlast⟩ := ack_frame_last (body := replyBody pm2_5 pm10_0 pm1_0) (chk := chk) rfl hs.fbWf
    hs.shape hs.cur_toNat
  have hl : (0xFF :: replyBody pm2_5 pm10_0 pm1_0 : List Byte).length ≤ 63 := by simp [replyBody]
  obtain ⟨t, ht, -, houtcome⟩ := receiveFrame_of_last hs haccepts hl hlast
  refine ⟨t, congrArg Host.Outcome.next ht, ?_⟩
  have hpublished : publishedBy (stored chk (s.took (0xFF :: replyBody pm2_5 pm10_0 pm1_0))) =
      pairs s pm1_0 pm2_5 pm10_0 := by
    refine publishedBy_reply hs.shape fun i hi => ?_
    rw [stored_took_fbAt hs hl, if_pos (by simp [replyBody]; omega), List.cons_append, List.getD_cons_succ,
      List.getD_append _ _ _ _ hi]
  rw [hpublished, byteSum_replyBody] at houtcome
  simpa only [Nat.add_assoc] using houtcome

/-! ### At most one reading a cycle -/

/-- From `s` to `t` `PUBQ` only grows, and where it grows the pending TRIGGER is used up by one reading (R151, R154). -/
def OneReading (s t : State) : Prop :=
  ∃ out : List (Channel × Half), t.pubq = s.pubq ++ out ∧
    (out ≠ [] → s.pend = true ∧ t.pend = false ∧ out.length ≤ 3 ∧ (out.map Prod.fst).Nodup)

theorem OneReading.of_pubq_eq {s t : State} (h : t.pubq = s.pubq) : OneReading s t :=
  ⟨[], by rw [h, List.append_nil], fun hne => absurd rfl hne⟩

/-- Each output in its place, or left out. -/
theorem pairs_sublist (s : State) (pm1_0 pm2_5 pm10_0 : Half) :
    (pairs s pm1_0 pm2_5 pm10_0).Sublist [(.pm1_0, pm1_0), (.pm2_5, pm2_5), (.pm10_0, pm10_0)] := by
  have hattached : ∀ (att : Bool) (p : Channel × Half), (if att then [p] else []).Sublist [p] := fun att p => by
    cases att
    · exact List.nil_sublist _
    · exact List.Sublist.refl _
  exact ((hattached s.attPm1_0 _).append (hattached s.attPm2_5 _)).append (hattached s.attPm10_0 _)

/-- One value at most for each of the three outputs. -/
theorem pairs_once (s : State) (pm1_0 pm2_5 pm10_0 : Half) :
    (pairs s pm1_0 pm2_5 pm10_0).length ≤ 3 ∧ ((pairs s pm1_0 pm2_5 pm10_0).map Prod.fst).Nodup := by
  have hsub := pairs_sublist s pm1_0 pm2_5 pm10_0
  exact ⟨hsub.length_le, (hsub.map Prod.fst).nodup (by simp)⟩

theorem onComplete_oneReading (s : State) : OneReading s (onComplete s) := by
  rw [onComplete_eq]
  refine ⟨_, rfl, fun hne => ?_⟩
  by_cases hpub : s.mayPublish = true
  · obtain ⟨-, hpend⟩ := (mayPublish_iff s).1 hpub
    rw [if_pos hpub, published_eq_pairs]
    exact ⟨hpend, rfl, pairs_once s _ _ _⟩
  · exact absurd (if_neg hpub) hne

/-- A received byte publishes once at most, and none sets `PEND`: only SEND does. -/
theorem receiveByte_oneReading (b : Byte) (s : State) :
    OneReading s (receiveByte b s) ∧ ((receiveByte b s).pend = true → s.pend = true) := by
  have hframe := decodeByte_frame b s
  rcases receiveByte_cases b s with ⟨-, e⟩ | ⟨-, e⟩ <;> rw [e]
  · have hreading := onComplete_oneReading (decodeByte b s).2
    refine ⟨?_, fun h => ?_⟩
    · rw [OneReading, hframe] at hreading
      rwa [hframe]
    · rw [onComplete_eq] at h
      nomatch h
  · rw [hframe]
    exact ⟨.of_pubq_eq rfl, id⟩

/-- Once `PEND` is used up it stays 0, so nothing follows the first reading. -/
theorem OneReading.trans {s t u : State} (hst : OneReading s t) (hpend : t.pend = true → s.pend = true)
    (htu : OneReading t u) (hpend' : u.pend = true → t.pend = true) : OneReading s u := by
  obtain ⟨out, hpubq, hout⟩ := hst
  obtain ⟨more, hpubq', hmore⟩ := htu
  by_cases hnil : more = []
  · refine ⟨out, by rw [hpubq', hpubq, hnil, List.append_nil], fun hne => ?_⟩
    obtain ⟨hs, ht, honce⟩ := hout hne
    have hu : u.pend = false := Bool.eq_false_iff.2 fun hu => nomatch ht.symm.trans (hpend' hu)
    exact ⟨hs, hu, honce⟩
  · obtain ⟨ht, hu, honce⟩ := hmore hnil
    have hfirst : out = [] := by
      by_contra hne
      obtain ⟨-, ht', -⟩ := hout hne
      nomatch ht.symm.trans ht'
    exact ⟨more, by rw [hpubq', hpubq, hfirst, List.append_nil], fun _ => ⟨hpend ht, hu, honce⟩⟩

theorem readBytes_oneReading (s : State) : OneReading s (readBytes s) := by
  refine (readBytes_keeps (P := fun t => OneReading s t ∧ (t.pend = true → s.pend = true)) (fun t h => ?_)
    (fun _ _ h => h) (fun _ _ _ h => h) (fun b t h => ?_) s ⟨.of_pubq_eq rfl, id⟩).1
  · rw [stale_eq]; split <;> exact h
  · obtain ⟨hreading, hpend⟩ := h
    obtain ⟨hreading', hpend'⟩ := receiveByte_oneReading b t
    exact ⟨hreading.trans hpend hreading' hpend', hpend ∘ hpend'⟩

/-- TICK publishes in its reading steps only. -/
theorem tick_oneReading (s : State) : OneReading s (tick s) := by
  have hpubq : (initOp s).pubq = s.pubq := by rw [initOp_eq]
  have hpend : (initOp s).pend = s.pend := by rw [initOp_eq]
  have hread := readBytes_oneReading (initOp s)
  rw [OneReading, hpubq, hpend] at hread
  rcases tick_cases s with ⟨-, -, e⟩ | ⟨-, -, e⟩ | ⟨-, -, e⟩ | ⟨-, -, e⟩ | ⟨-, -, e⟩ <;> rw [e]
  · refine .of_pubq_eq ?_
    rw [dutyIdle_eq]; split <;> exact hpubq
  · refine .of_pubq_eq ?_
    rw [dutyStab_eq]; split <;> exact hpubq
  · exact hread
  · exact .of_pubq_eq hpubq
  · exact hread

theorem step_oneReading {s t : State} (hm : s.onlyMoves = true) (hst : step s = .next t) : OneReading s t := by
  obtain ⟨rest, -, ⟨n, rfl⟩ | ⟨q, e, rfl⟩⟩ := step_cases hm hst
  · exact tick_oneReading { s with script := rest, now := n }
  · exact .of_pubq_eq rfl

/-- No move of the environment changes the interval (R28). -/
theorem step_ui {s t : State} (hm : s.onlyMoves = true) (hst : step s = .next t) : t.ui = s.ui := by
  obtain ⟨rest, -, ⟨n, rfl⟩ | ⟨q, e, rfl⟩⟩ := step_cases hm hst
  · obtain ⟨-, hui, -⟩ := tick_frame { s with script := rest, now := n }
    exact hui
  · rfl

theorem cyc_eq_of_ui_eq {s t : State} (h : t.ui = s.ui) : t.cyc = s.cyc := by
  rw [State.cyc, State.cyc, h]

/-- Settles O58: a reading uses up `PEND` (`step_oneReading`), which by R20 is 1 in `Waiting` alone, and `DS` leaves
`Waiting` for `Idle` only (O39). -/
theorem onePublicationPerCycle : Obligations.OnePublicationPerCycle := by
  intro s t hinv hst
  obtain ⟨out, hpubq, hout⟩ := step_oneReading hinv.moves hst
  refine ⟨out, hpubq, fun hne => ?_⟩
  obtain ⟨hpend, hpend', honce⟩ := hout hne
  obtain ⟨hcyc, hwaiting⟩ := hinv.pendIff.1 hpend
  have hcyc' : t.cyc = true := (cyc_eq_of_ui_eq (step_ui hinv.moves hst)).trans hcyc
  have hleft : t.ds ≠ .waiting := fun hw =>
    nomatch hpend'.symm.trans ((everyStepKeepsTheInvariant s t hinv hst).pendIff.2 ⟨hcyc', hw⟩)
  refine ⟨hwaiting, ?_, honce⟩
  rcases dutyStateMovesAlongItsCycle s t hinv hst with h | ⟨h, -⟩ | ⟨h, -⟩ | ⟨-, h⟩
  · exact absurd (h.trans hwaiting) hleft
  · nomatch hwaiting.symm.trans h
  · nomatch hwaiting.symm.trans h
  · exact h

/-! ### Continuous mode -/

theorem reject_keeps_warn (c : Cause) {s : State} (hw : s.warn = true) : (reject c s).2.warn = true := by
  obtain ⟨-, -, e, -, -, hwarn⟩ := reject_effect c s
  rw [hwarn, hw, Bool.true_or]

/-- DECODE never clears `WARN` (D13). -/
theorem decodeByte_keeps_warn (b : Byte) {s : State} (hw : s.warn = true) : (decodeByte b s).2.warn = true := by
  rcases decodeByte_cases b s with ⟨-, e⟩ | ⟨-, ⟨e, -⟩ | ⟨c, -, e⟩ | ⟨e, -⟩⟩ <;> rw [e]
  · exact reject_keeps_warn _ hw
  · exact hw
  · exact reject_keeps_warn _ hw
  · exact hw

/-- ON_COMPLETE clears `WARN` in DUTY.DONE only, which continuous mode never runs (R165, R211). -/
theorem receiveByte_keeps_warn (b : Byte) {s : State} (hc : s.cyc = false) (hw : s.warn = true) :
    (receiveByte b s).warn = true := by
  have hdecoded := decodeByte_keeps_warn b hw
  have hcyc : (decodeByte b s).2.cyc = false := by rw [decodeByte_frame]; exact hc
  rcases receiveByte_cases b s with ⟨-, e⟩ | ⟨-, e⟩ <;> rw [e]
  · rw [onComplete_eq, hcyc]
    exact hdecoded
  · exact hdecoded

theorem receiveByte_cyc (b : Byte) (s : State) : (receiveByte b s).cyc = s.cyc := by
  obtain ⟨-, -, -, hui, -⟩ := receiveByte_frame b s
  exact cyc_eq_of_ui_eq hui

theorem readBytes_keeps_warn {s : State} (hc : s.cyc = false) (hw : s.warn = true) : (readBytes s).warn = true := by
  refine (readBytes_keeps (P := fun t => t.cyc = false ∧ t.warn = true) (fun t h => ?_) (fun _ _ h => h)
    (fun _ _ _ h => h) (fun b t h => ?_) s ⟨hc, hw⟩).2
  · rw [stale_eq]; split <;> exact h
  · obtain ⟨htc, htw⟩ := h
    exact ⟨(receiveByte_cyc b t).trans htc, receiveByte_keeps_warn b htc htw⟩

theorem tick_keeps_warn {s : State} (hc : s.cyc = false) (hw : s.warn = true) : (tick s).warn = true := by
  have hw0 : (initOp s).warn = true := by rw [initOp_eq]; exact hw
  have hc0 : (initOp s).cyc = false := by rw [initOp_eq]; exact hc
  rcases tick_cases s with ⟨hn, -⟩ | ⟨hn, -⟩ | ⟨hn, -⟩ | ⟨-, -, e⟩ | ⟨-, -, e⟩
  · nomatch hc.symm.trans hn
  · nomatch hc.symm.trans hn
  · nomatch hc.symm.trans hn
  · rw [e]; exact hw0
  · rw [e]; exact readBytes_keeps_warn hc0 hw0

theorem step_keeps_warn {s t : State} (hm : s.onlyMoves = true) (hc : s.cyc = false) (hst : step s = .next t)
    (hw : s.warn = true) : t.warn = true := by
  obtain ⟨rest, -, ⟨n, rfl⟩ | ⟨q, e, rfl⟩⟩ := step_cases hm hst
  · exact tick_keeps_warn (s := { s with script := rest, now := n }) hc hw
  · exact hw

/-- In continuous mode nothing is pending (R20). -/
theorem State.Inv.pend_eq_false {s : State} (h : s.Inv) (hc : s.cyc = false) : s.pend = false := by
  rw [Bool.eq_false_iff]
  intro hp
  obtain ⟨hcyc, -⟩ := h.pendIff.1 hp
  nomatch hc.symm.trans hcyc

/-- Settles O57: with `PEND = 0` a step publishes nothing (`step_oneReading`), and the invariant after it says the
rest. -/
theorem continuousModePublishesNothing : Obligations.ContinuousModePublishesNothing := by
  intro s t hinv hle hst
  have hc : s.cyc = false := Bool.eq_false_iff.2 fun hc => absurd ((cyc_iff s).1 hc) (by omega)
  have hui := step_ui hinv.moves hst
  have hc' : t.cyc = false := (cyc_eq_of_ui_eq hui).trans hc
  have hinv' := everyStepKeepsTheInvariant s t hinv hst
  obtain ⟨out, hpubq, hout⟩ := step_oneReading hinv.moves hst
  have hnone : out = [] := by
    by_contra hne
    obtain ⟨hpend, -⟩ := hout hne
    nomatch (hinv.pend_eq_false hc).symm.trans hpend
  exact ⟨by rw [hpubq, hnone, List.append_nil], step_keeps_warn hinv.moves hc hst, hinv'.idleIfContinuous hc',
    hinv'.pend_eq_false hc', hui⟩

end Sys2Proof.Machine
end

section
/-! PROOFS. The statements of 43_duty_cycle.md: the duty operations and the gates alone, and the thresholds a cycling
tick crosses. -/

namespace Sys2Proof.Machine

/-! ### The operations alone -/

/-- Settles O34: the test is `offTimeRuns_iff`, the transition `dutyIdle_eq`. -/
theorem idlePowersOnAfterTheOffTime : Obligations.IdlePowersOnAfterTheOffTime := by
  intro s
  have hexec : exec .dutyIdle s = .next ((dutyIdle s).answer .tickEnds) := rfl
  rw [hexec, dutyIdle_eq]
  simp only [offTimeRuns_iff]
  split <;> rfl

/-- Settles O36: the test is `warmUpRuns_iff`; DRAIN writes nothing TRIGGER writes (`drain_frame`). -/
theorem stabilisingTriggersAfterWarmUp : Obligations.StabilisingTriggersAfterWarmUp := by
  intro s
  have hexec : exec .dutyStab s = .next ((dutyStab s).answer .tickEnds) := rfl
  have hwarm := warmUpRuns_iff s
  rw [hexec, dutyStab_eq]
  refine ⟨fun hlt => ?_, fun hge => ⟨(drain s).answer .nothing, rfl, ?_⟩⟩
  · rw [if_pos (hwarm.2 hlt)]
    rfl
  · rw [if_neg fun h => Nat.not_lt.2 hge (hwarm.1 h), drain_frame s]
    rfl

/-- Settles O37: each of the three answers and no more; the two tests are `gateClosed_iff` and `RxAvail`. -/
theorem gatesWriteNothing : Obligations.GatesWriteNothing := by
  intro s
  have hexec : exec .contGate s = .next (s.answer (if s.gateClosed then .tickEnds else .tickGoesOn)) := rfl
  refine ⟨rfl, ?_, rfl⟩
  rw [hexec]
  simp only [gateClosed_iff]
  rfl

/-- Settles O38, by the one equation of DUTY.DONE. -/
theorem doneReturnsToIdle : Obligations.DoneReturnsToIdle := fun s =>
  congrArg (fun t => Host.Outcome.next (State.answer t .nothing)) (dutyDone_eq s)

/-! ### The thresholds of a cycling tick -/

theorem tick_of_idle {s : State} (hc : s.cyc = true) (hd : s.ds = .idle) : tick s = dutyIdle (initOp s) := by
  simpa [hc, hd] using tick_cases s

theorem tick_of_stabilising {s : State} (hc : s.cyc = true) (hd : s.ds = .stabilising) :
    tick s = dutyStab (initOp s) := by
  simpa [hc, hd] using tick_cases s

/-- The way out of `Idle` (R162): INIT writes nothing that the test reads. -/
theorem tick_ds_of_idle {s : State} (hc : s.cyc = true) (hd : s.ds = .idle) :
    (tick s).ds = if s.offTimeRuns then .idle else .stabilising := by
  have htest : (initOp s).offTimeRuns = s.offTimeRuns := by rw [initOp_eq]; rfl
  rw [tick_of_idle hc hd, dutyIdle_eq, htest]
  split
  · exact (initOp_ds s).trans hd
  · rfl

/-- The way out of `Stabilising` (R163): INIT writes nothing that the test reads. -/
theorem tick_ds_of_stabilising {s : State} (hc : s.cyc = true) (hd : s.ds = .stabilising) :
    (tick s).ds = if s.warmUpRuns then .stabilising else .waiting := by
  have htest : (initOp s).warmUpRuns = s.warmUpRuns := by rw [initOp_eq]; rfl
  rw [tick_of_stabilising hc hd, dutyStab_eq, htest]
  split
  · exact (initOp_ds s).trans hd
  · rfl

/-- In cycling mode the off time `UI - 45000` of R162 does not wrap (D3). -/
theorem offTime_toNat {ui : Time} (h : 45000 < ui.toNat) : (ui - 45000).toNat = ui.toNat - 45000 :=
  BitVec.toNat_sub_of_le (BitVec.le_def.2 h.le)

/-- Settles O40: the tick runs the row of `DS` on what INIT left, and the row's test is the threshold. -/
theorem cyclingTicksCrossTheirThresholds : Obligations.CyclingTicksCrossTheirThresholds := by
  intro s hui
  have hc : s.cyc = true := (cyc_iff s).2 hui
  refine ⟨fun hd => ⟨(tick s).answer .nothing, rfl, ?_⟩, fun hd => ⟨(tick s).answer .nothing, rfl, ?_⟩⟩
  · simp only [State.answer_ds, tick_ds_of_idle hc hd, offTimeRuns_iff, offTime_toNat hui]
  · simp only [State.answer_ds, tick_ds_of_stabilising hc hd, warmUpRuns_iff]

end Sys2Proof.Machine
end

section
/-! PROOFS. The statements of 44_driver_step.md: DRAIN and STALE alone, the byte loop with and without a read that
fails, and TICK as the sequence of its operations. -/

namespace Sys2Proof.Machine

/-! ### DRAIN and STALE alone -/

/-- Settles O35, by the three branches of DRAIN. -/
theorem drainEmptiesTheQueue : Obligations.DrainEmptiesTheQueue := by
  intro s
  have hexec : exec .drain s = .next ((drain s).answer .nothing) := rfl
  rw [hexec]
  refine ⟨fun he => ?_, fun n he hlt => ?_, fun n he hle => ?_⟩ <;> simp only [drain, he]
  · rw [← he]
    rfl
  · rw [if_pos hlt]
    rfl
  · rw [if_neg (Nat.not_lt.2 hle)]
    rfl

/-- Settles O42: the test is `silent_iff`, the reset of the cursor `stale_eq`. -/
theorem staleDropsThePartialFrame : Obligations.StaleDropsThePartialFrame := by
  intro s
  have hexec : exec .stale s = .next ((stale s).answer .tickGoesOn) := rfl
  rw [hexec, stale_eq]
  simp only [silent_iff]
  split <;> rfl

/-! ### The byte loop from every state -/

/-- The configuration, `FPT`, `INIT`, `now` and the script, which RXLOOP never writes (R183). -/
def SameSetting (s t : State) : Prop :=
  t.ui = s.ui ∧ t.attPm1_0 = s.attPm1_0 ∧ t.attPm2_5 = s.attPm2_5 ∧ t.attPm10_0 = s.attPm10_0 ∧ t.fpt = s.fpt ∧
    t.init = s.init ∧ t.now = s.now ∧ t.script = s.script

theorem receiveByte_sameSetting (b : Byte) {s t : State} (h : SameSetting s t) : SameSetting s (receiveByte b t) := by
  obtain ⟨hfpt, -, hinit, hui, h1, h2, h10, -, hnow, -, hscript, -⟩ := receiveByte_frame b t
  rwa [SameSetting, hui, h1, h2, h10, hfpt, hinit, hnow, hscript]

theorem rxLoop_sameSetting (s : State) : SameSetting s (rxLoop s) :=
  rxLoop_keeps (P := SameSetting s) (fun _ _ h => h) (fun _ _ _ h => h) (fun b _ => receiveByte_sameSetting b) s
    ⟨rfl, rfl, rfl, rfl, rfl, rfl, rfl, rfl⟩

/-- Settles O44: the stamp is `rxLoop_lbt`, the emptied queue `rxLoop_eq`. -/
theorem rxLoopTakesEveryByte : Obligations.RxLoopTakesEveryByte := by
  intro s
  refine ⟨(rxLoop s).answer .nothing, rfl, ?_, fun he => ?_, rxLoop_sameSetting s⟩
  · rw [State.answer_lbt, rxLoop_lbt, readMark]
    simp only [takesByte_iff]
  · rw [rxLoop_eq s he]
    exact ⟨rfl, rfl⟩

/-! ### One byte of the loop -/

theorem exec_rxloop_answer (a : Answer) (s : State) : exec .rxloop (s.answer a) = exec .rxloop s := by
  show Host.Outcome.next ((rxLoop (s.answer a)).answer .nothing) = _
  rw [rxLoop_answer]
  rfl

theorem stampRead_of_stamped {s : State} (h : s.lbt = s.now) : stampRead s = s := by
  unfold stampRead
  split
  · exact congrArg (fun l : Time => { s with lbt := l }) h.symm
  · rfl

/-- The loop over a byte and more is that byte received and then the loop: the first byte stamps for all (D21). -/
theorem exec_rxloop_cons {s : State} {b : Byte} {rest : List Byte} (hq : s.rxq = b :: rest) (he : s.rxErr = none) :
    exec .rxloop s = exec .rxloop (receiveByte b { s with lbt := s.now, rxq := rest }) := by
  obtain ⟨-, hlbt, -, -, -, -, -, hrest, hnow, -⟩ := receiveByte_frame b { s with lbt := s.now, rxq := rest }
  have hmark : readMark s = s.now := if_pos ((takesByte_iff s).2 ⟨by simp [hq], by simp [he]⟩)
  have hloop : rxLoop s = rxLoop (receiveByte b { s with lbt := s.now, rxq := rest }) := by
    rw [rxLoop, rxLoop, stampRead_of_stamped (hlbt.trans hnow.symm), hrest, hq, stampRead_eq, hmark, receiveAll]
    simp only [he, Option.map_none]
  exact congrArg (fun t => Host.Outcome.next (State.answer t .nothing)) hloop

theorem onComplete_answer (a : Answer) (s : State) : onComplete (s.answer a) = (onComplete s).answer a := by
  rw [onComplete_eq, onComplete_eq]
  rfl

/-- A byte received is DECODE, and ON_COMPLETE where DECODE answers Complete; the loop after it reads no answer. -/
theorem exec_rxloop_receiveByte (b : Byte) (s : State) :
    ∃ u, exec (.decode b) s = .next u ∧
      (u.ans = .verdict .complete →
        ∃ v, exec .onComplete u = .next v ∧ exec .rxloop (receiveByte b s) = exec .rxloop v) ∧
      (u.ans ≠ .verdict .complete → exec .rxloop (receiveByte b s) = exec .rxloop u) := by
  refine ⟨(decodeByte b s).2.answer (.verdict (decodeByte b s).1), rfl, ?_⟩
  rcases receiveByte_cases b s with ⟨hv, e⟩ | ⟨hv, e⟩
  · refine ⟨fun _ => ⟨_, rfl, ?_⟩, fun hne => absurd (congrArg Answer.verdict hv) hne⟩
    rw [onComplete_answer, answer_answer, exec_rxloop_answer, e]
  · exact ⟨fun hans => absurd (Answer.verdict.inj hans) hv, fun _ => by rw [exec_rxloop_answer, e]⟩

/-- Settles O45: the loop is the first byte received and the loop (`exec_rxloop_cons`), and receiving it is DECODE and
ON_COMPLETE (`exec_rxloop_receiveByte`). -/
theorem rxLoopIsDecodeByteByByte : Obligations.RxLoopIsDecodeByteByByte := by
  intro s b rest hq he
  rw [exec_rxloop_cons hq he]
  exact exec_rxloop_receiveByte b { s with lbt := s.now, rxq := rest }

/-! ### A read that fails -/

/-- The loop up to a read that fails: the bytes before it are decoded, the others stay offered (R185, D11). -/
theorem receiveAll_of_failure {n : Nat} {s : State} (he : s.rxErr = some n) (hn : n < s.rxq.length) :
    receiveAll s.rxq s =
      (decodeAll (s.rxq.take n) s).reseat s.lbt (s.rxq.drop n) none s.script s.ans := by
  generalize hq : s.rxq = q at hn ⊢
  induction q generalizing n s with
  | nil => exact absurd hn (Nat.not_lt_zero n)
  | cons b rest ih =>
    cases n with
    | zero =>
      simp only [receiveAll, he]
      rw [List.drop_zero, ← hq]
      rfl
    | succ n =>
      have hbyte : receiveByte b { s with rxq := rest, rxErr := some n } =
          (receiveByte b s).reseat s.lbt rest (some n) s.script s.ans :=
        receiveByte_reseat s.lbt rest (some n) s.script s.ans b s
      simp only [receiveAll, he, Option.map_some, Nat.add_sub_cancel]
      rw [hbyte, ih rfl rfl (Nat.lt_of_succ_lt_succ hn), decodeAll_reseat]
      rfl

/-- RXLOOP with a read that fails among the bytes offered; `LBT` is stamped unless it is the first (D21). -/
theorem exec_rxloop_of_failure {n : Nat} {s : State} (he : s.rxErr = some n) (hn : n < s.rxq.length) :
    exec .rxloop s =
      .next ((decodeAll (s.rxq.take n) s).reseat (if n = 0 then s.lbt else s.now) (s.rxq.drop n) none s.script
        .nothing) := by
  have hne : s.rxq ≠ [] := List.ne_nil_of_length_pos (Nat.zero_lt_of_lt hn)
  have hmark : readMark s = if n = 0 then s.lbt else s.now := by
    simp [readMark, State.takesByte, he, hne]
  have hseat : stampRead s = s.reseat (readMark s) s.rxq s.rxErr s.script s.ans := stampRead_eq s
  have hall := receiveAll_of_failure (s := s.reseat (readMark s) s.rxq s.rxErr s.script s.ans) he hn
  have hexec : exec .rxloop s = .next ((receiveAll s.rxq (stampRead s)).answer .nothing) := rfl
  rw [decodeAll_reseat] at hall
  rw [hexec, hseat, ← hmark]
  exact congrArg (fun t => Host.Outcome.next (State.answer t .nothing)) hall

/-- Settles O47: both loops decode the same bytes and stamp alike (`exec_rxloop_of_failure`, `exec_rxloop_offered`). -/
theorem readFailureEndsTheLoop : Obligations.ReadFailureEndsTheLoop := by
  refine ⟨fun s n he hn => ?_, fun s he hne => ?_⟩
  · have htaken : s.rxq.take n = [] ↔ n = 0 := by
      simp [List.take_eq_nil_iff, List.ne_nil_of_length_pos (Nat.zero_lt_of_lt hn)]
    have hseat : ({ s with rxErr := none } : State) = s.reseat s.lbt s.rxq none s.script s.ans := rfl
    refine ⟨_, exec_rxloop_offered (s := { s with rxErr := none }) rfl (s.rxq.take n), ?_⟩
    rw [exec_rxloop_of_failure he hn, hseat, decodeAll_reseat]
    simp only [htaken]
    rfl
  · exact exec_rxloop_of_failure he (List.length_pos_of_ne_nil hne)

/-! ### TICK and its operations -/

theorem initOp_cyc (s : State) : (initOp s).cyc = s.cyc := by rw [initOp_eq]; rfl

theorem initOp_gateClosed (s : State) : (initOp s).gateClosed = s.gateClosed := by rw [initOp_eq]; rfl

theorem initOp_init (s : State) : (initOp s).init = true := by rw [initOp_eq]

/-- The row a TSEL4 word selects once `INIT` is set (R66): the duty row of `DS` in cycling mode, CONT.GATE in
continuous mode. -/
theorem decode_tsel4 {s : State} (hi : s.init = true) :
    decode [fmtTick, s.tsel4] = if s.cyc then dutyRow (dsCode s.ds) else .ok .contGate := by
  rw [State.tsel4, hi]
  cases s.cyc <;> cases s.ds <;> rfl

/-- The same of the word TICK dispatches on, INIT run. -/
theorem decode_tsel4_initOp (s : State) (a : Answer) :
    decode [fmtTick, ((initOp s).answer a).tsel4] = if s.cyc then dutyRow (dsCode s.ds) else .ok .contGate := by
  have h := decode_tsel4 (s := (initOp s).answer a) (initOp_init s)
  rwa [State.answer_ds, initOp_ds, show ((initOp s).answer a).cyc = s.cyc from initOp_cyc s] at h

theorem readBytes_answer (a : Answer) (s : State) : readBytes (s.answer a) = (readBytes s).answer a := by
  simp only [readBytes, stale_answer, rxLoop_answer]
  exact (apply_ite (State.answer · a) ((stale s).rxAvail = 0) (stale s) (rxLoop (stale s))).symm

/-- The reading steps are STALE, RXEMPTY and, where that does not end the tick, RXLOOP (R180). -/
theorem readBytes_runs_in_order (s : State) :
    ∃ s3 s4, exec .stale s = .next s3 ∧ exec .rxempty s3 = .next s4 ∧
      ((s4.ans = .tickEnds ∧ (readBytes s).answer .nothing = s4.answer .nothing) ∨
       (s4.ans = .tickGoesOn ∧ .next ((readBytes s).answer .nothing) = exec .rxloop s4)) := by
  refine ⟨_, _, rfl, rfl, ?_⟩
  rw [exec_rxloop_answer, exec_rxloop_answer]
  by_cases h : (stale s).rxAvail = 0
  · have hread : readBytes s = stale s := if_pos h
    exact .inl ⟨if_pos h, by rw [hread]; rfl⟩
  · have hread : readBytes s = rxLoop (stale s) := if_neg h
    exact .inr ⟨if_neg h, by rw [hread]; rfl⟩

/-- A tick whose row lets it go on is the reading steps on what INIT left. -/
theorem exec_tick_of_goesOn {s : State} (e : tick s = readBytes (initOp s)) :
    ∃ s3 s4, exec .stale ((initOp s).answer .tickGoesOn) = .next s3 ∧ exec .rxempty s3 = .next s4 ∧
      ((s4.ans = .tickEnds ∧ exec .tick s = .next { s4 with ans := .nothing }) ∨
       (s4.ans = .tickGoesOn ∧ exec .tick s = exec .rxloop s4)) := by
  have htick : exec .tick s = .next ((readBytes ((initOp s).answer .tickGoesOn)).answer .nothing) := by
    rw [readBytes_answer, answer_answer, ← e]
    rfl
  obtain ⟨s3, s4, hstale, hempty, ⟨hans, hends⟩ | ⟨hans, hloop⟩⟩ :=
    readBytes_runs_in_order ((initOp s).answer .tickGoesOn)
  · exact ⟨s3, s4, hstale, hempty, .inl ⟨hans, htick.trans (congrArg Host.Outcome.next hends)⟩⟩
  · exact ⟨s3, s4, hstale, hempty, .inr ⟨hans, htick.trans hloop⟩⟩

/-- A tick that its row ends leaves what the row left, but for the answer. -/
theorem exec_tick_of_ends {s t : State} (e : t = (tick s).answer .tickEnds) :
    exec .tick s = .next { t with ans := .nothing } := by
  rw [e]
  rfl

/-- Settles O41, by the branch TICK takes (`tick_cases`): the word selects its row (`decode_tsel4_initOp`), which ends
the tick or leads to the reading steps (`exec_tick_of_goesOn`). -/
theorem tickRunsItsOperationsInOrder : Obligations.TickRunsItsOperationsInOrder := by
  intro s
  have hrow := decode_tsel4_initOp s .tickGoesOn
  have hgate : exec .contGate ((initOp s).answer .tickGoesOn) =
      .next ((initOp s).answer (if s.gateClosed then .tickEnds else .tickGoesOn)) := by
    rw [← initOp_gateClosed s]
    rfl
  rcases tick_cases s with ⟨hc, hd, e⟩ | ⟨hc, hd, e⟩ | ⟨hc, hd, e⟩ | ⟨hc, hg, e⟩ | ⟨hc, hg, e⟩ <;> rw [hc] at hrow
  · rw [hd] at hrow
    exact ⟨_, _, .dutyIdle, rfl, hrow, rfl, .inl ⟨rfl, exec_tick_of_ends (by rw [e, dutyIdle_answer]; rfl)⟩⟩
  · rw [hd] at hrow
    exact ⟨_, _, .dutyStab, rfl, hrow, rfl, .inl ⟨rfl, exec_tick_of_ends (by rw [e, dutyStab_answer]; rfl)⟩⟩
  · rw [hd] at hrow
    exact ⟨_, _, .dutyWait, rfl, hrow, rfl, .inr ⟨rfl, exec_tick_of_goesOn e⟩⟩
  · rw [hg] at hgate
    exact ⟨_, _, .contGate, rfl, hrow, hgate, .inl ⟨rfl, exec_tick_of_ends (by rw [e]; rfl)⟩⟩
  · rw [hg] at hgate
    exact ⟨_, _, .contGate, rfl, hrow, hgate, .inr ⟨rfl, exec_tick_of_goesOn e⟩⟩

end Sys2Proof.Machine
end

section
/-! PROOFS. The statement of 60_exceptions.md: no operation faults or stops, and a step stops at one place only, a call
word of no operation. -/

namespace Sys2Proof.Machine

/-- R200, operation by operation: each meaning is built as a next state, whatever its branches do inside. -/
theorem exec_answers_next (i : Instr) (s : State) : ∃ t, exec i s = .next t := by
  cases i <;> exact ⟨_, rfl⟩

/-- A call whose word decodes runs one operation, which cannot stop; so a call stops only under its decoder's reason. -/
theorem runCall_cases (word : List Byte) (s : State) :
    (∃ t, runCall word s = .next t) ∨
      ∃ why, decode word = .error why ∧ runCall word s = .refused (.undecodable why) := by
  unfold runCall
  cases hd : decode word with
  | ok i => exact .inl (exec_answers_next i s)
  | error why => exact .inr ⟨why, rfl, rfl⟩

/-- Settles O7, by the next line of the script: only a call can stop, and only where its word decodes to nothing
(`runCall_cases`). -/
theorem onlyBadCallWordsStop : Obligations.OnlyBadCallWordsStop := by
  refine ⟨exec_answers_next, fun s => ?_⟩
  unfold step runLine
  cases hs : s.script with
  | nil => exact .inl (exec_answers_next .tick _)
  | cons line rest =>
    cases line with
    | rx bytes => exact .inl ⟨_, rfl⟩
    | readFails after => exact .inl ⟨_, rfl⟩
    | tick t => exact .inl (exec_answers_next .tick _)
    | call word =>
      obtain hnext | ⟨why, hdec, href⟩ := runCall_cases word { s with script := rest }
      · exact .inl hnext
      · exact .inr ⟨word, rest, why, rfl, hdec, href⟩

end Sys2Proof.Machine
end

section
/-! PROOFS. The statements of 70_reset_and_hazards.md: RESET, the next move of the environment, the silence that forgets
a partial frame, and the hang in `Waiting`. -/

namespace Sys2Proof.Machine

/-! ### RESET and the next move -/

/-- Settles O52: RESET writes every field that R230 gives a value, and no other. -/
theorem resetGivesTheStartState : Obligations.ResetGivesTheStartState :=
  fun _ _ _ _ _ => ⟨_, rfl, rfl⟩

/-- Settles O5, by the next line of the script. -/
theorem stepMakesTheNextMove : Obligations.StepMakesTheNextMove := by
  intro s rest
  unfold step runLine
  refine ⟨fun t hs => ?_, fun bytes hs => ?_, fun n hs => ?_, fun hs => ?_⟩ <;> rw [hs] <;> rfl

/-! ### The ticks that read -/

/-- STALE writes `CUR` and `EVQ` only (R181). -/
theorem stale_frame (s : State) : stale s = { s with cur := (stale s).cur, evq := (stale s).evq } := by
  rw [stale_eq]
  split <;> rfl

/-- Where TICK comes to its reading steps: in `Waiting` of cycling mode (R164), or with the gate of continuous mode open
(R166). -/
def State.Reads (s : State) : Prop :=
  (s.cyc = true ∧ s.ds = .waiting) ∨ (s.cyc = false ∧ s.gateClosed = false)

/-- `State.Reads` as the statements say it, in numbers. -/
theorem State.reads_iff (s : State) :
    s.Reads ↔
      (45000 < s.ui.toNat ∧ s.ds = .waiting) ∨ (s.ui.toNat ≤ 45000 ∧ s.ui.toNat ≤ (s.now - s.lmt).toNat) := by
  rw [State.Reads, cyc_iff, ← Bool.not_eq_true, ← Bool.not_eq_true, cyc_iff, gateClosed_iff, Nat.not_lt, Nat.not_lt]

theorem initOp_of_init {s : State} (hi : s.init = true) : initOp s = s := if_pos hi

/-- A tick reads on what INIT left, or it leaves `LBT` alone (R246). -/
theorem tick_reads_or_keeps_lbt (s : State) :
    (s.Reads ∧ tick s = readBytes (initOp s)) ∨ (¬ s.Reads ∧ (tick s).lbt = s.lbt) := by
  have hinit : (initOp s).lbt = s.lbt := by rw [initOp_eq]
  unfold State.Reads
  rcases tick_cases s with ⟨hc, hd, e⟩ | ⟨hc, hd, e⟩ | ⟨hc, hd, e⟩ | ⟨hc, hg, e⟩ | ⟨hc, hg, e⟩
  · refine .inr ⟨by simp [hc, hd], ?_⟩
    rw [e, dutyIdle_eq]
    split <;> exact hinit
  · refine .inr ⟨by simp [hc, hd], ?_⟩
    rw [e, dutyStab_eq]
    split <;> exact hinit
  · exact .inl ⟨.inl ⟨hc, hd⟩, e⟩
  · exact .inr ⟨by simp [hc, hg], e ▸ hinit⟩
  · exact .inl ⟨.inr ⟨hc, hg⟩, e⟩

/-- With `INIT` set a tick that reads is its reading steps. -/
theorem tick_of_reads {s : State} (hi : s.init = true) (hr : s.Reads) : tick s = readBytes s := by
  rcases tick_reads_or_keeps_lbt s with ⟨-, e⟩ | ⟨hnot, -⟩
  · rw [e, initOp_of_init hi]
  · exact absurd hr hnot

/-! ### Silence -/

theorem receiveByte_rxq (b : Byte) (s : State) : (receiveByte b s).rxq = s.rxq := by
  obtain ⟨-, -, -, -, -, -, -, hrxq, -⟩ := receiveByte_frame b s
  exact hrxq

/-- The loop takes bytes out of `RXQ` and puts none in. -/
theorem receiveAll_rxq_length_le {q : List Byte} {s : State} (hq : q.length ≤ s.rxq.length) :
    (receiveAll q s).rxq.length ≤ s.rxq.length := by
  induction q generalizing s with
  | nil => exact le_rfl
  | cons b rest ih =>
    unfold receiveAll
    split
    · exact le_rfl
    · refine (ih (by rw [receiveByte_rxq])).trans ?_
      rw [receiveByte_rxq]
      exact (Nat.le_succ _).trans hq

/-- Where RXLOOP takes a byte, fewer are queued after it. -/
theorem rxLoop_rxq_length_lt {s : State} (h : s.takesByte = true) : (rxLoop s).rxq.length < s.rxq.length := by
  obtain ⟨hne, he⟩ := (takesByte_iff s).1 h
  obtain ⟨b, rest, hq⟩ := List.exists_cons_of_ne_nil hne
  rw [rxLoop, stampRead_eq, hq, receiveAll]
  split
  case h_1 hfail => exact absurd hfail he
  case h_2 =>
    refine Nat.lt_succ_of_le ((receiveAll_rxq_length_le (by rw [receiveByte_rxq])).trans ?_)
    rw [receiveByte_rxq]

/-- Where RXLOOP changes `LBT`, it stamps the time and takes a byte (D21). -/
theorem rxLoop_of_lbt_ne {s : State} (h : (rxLoop s).lbt ≠ s.lbt) :
    (rxLoop s).lbt = s.now ∧ (rxLoop s).rxq.length < s.rxq.length := by
  rw [rxLoop_lbt, readMark] at h ⊢
  split at h
  case isTrue htakes => exact ⟨if_pos htakes, rxLoop_rxq_length_lt htakes⟩
  case isFalse => exact absurd rfl h

/-- The same of the reading steps: STALE reads `LBT` and does not write it (R181). -/
theorem readBytes_of_lbt_ne {s : State} (h : (readBytes s).lbt ≠ s.lbt) :
    (readBytes s).lbt = s.now ∧ (readBytes s).rxq.length < s.rxq.length := by
  have hlbt : (stale s).lbt = s.lbt := by rw [stale_frame]
  have hnow : (stale s).now = s.now := by rw [stale_frame]
  have hrxq : (stale s).rxq = s.rxq := by rw [stale_frame]
  rcases readBytes_cases s with ⟨-, e⟩ | ⟨-, e⟩ <;> rw [e] at h ⊢
  · exact absurd hlbt h
  · rw [← hlbt] at h
    rw [← hnow, ← hrxq]
    exact rxLoop_of_lbt_ne h

theorem tick_of_lbt_ne {s : State} (h : (tick s).lbt ≠ s.lbt) :
    (tick s).lbt = s.now ∧ (tick s).rxq.length < s.rxq.length := by
  rcases tick_reads_or_keeps_lbt s with ⟨-, e⟩ | ⟨-, hkeeps⟩
  · rw [e] at h ⊢
    rw [initOp_eq] at h ⊢
    exact readBytes_of_lbt_ne h
  · exact absurd hkeeps h

/-- The state with the frame in progress given up: the cursor at 0 and E4 logged (R204). -/
def State.forgotten (s : State) : State := { s with cur := 0, evq := s.evq ++ [.e4] }

/-- After the silence STALE gives up the partial frame (R181), and does nothing where it was given up before (D17). -/
theorem stale_forgotten {s : State} (hs : s.silent = true) (hc : s.cur ≠ 0) : stale s.forgotten = stale s := by
  have hs' : s.forgotten.silent = true := hs
  rw [stale_eq, stale_eq, if_pos hs, if_pos hs', if_neg hc]
  rfl

/-- The reading steps begin with STALE and see nothing of the state but what it leaves (R180). -/
theorem readBytes_congr {s t : State} (h : stale s = stale t) : readBytes s = readBytes t := by
  simp only [readBytes, h]

/-- Settles O43: a tick that changes `LBT` runs RXLOOP and takes a byte there (`tick_of_lbt_ne`), and a tick that reads
begins with STALE, which leaves the same of both states (`stale_forgotten`). -/
theorem silenceForgetsThePartialFrame : Obligations.SilenceForgetsThePartialFrame := by
  refine ⟨fun s => ⟨_, rfl, tick_of_lbt_ne⟩, fun s hi hr hs hc => ?_⟩
  have hreads : s.Reads := s.reads_iff.2 hr
  have htick : tick s = tick s.forgotten :=
    calc tick s = readBytes s := tick_of_reads hi hreads
      _ = readBytes s.forgotten := (readBytes_congr (stale_forgotten ((silent_iff s).2 hs) hc)).symm
      _ = tick s.forgotten := (tick_of_reads (s := s.forgotten) hi hreads).symm
  exact congrArg (fun t => Host.Outcome.next (State.answer t .nothing)) htick

/-! ### The hang in `Waiting` -/

/-- A property that every step keeps, and where no step stops, a run of any length keeps. -/
theorem run_keeps {M : Host.Core} {P : M.State → Prop} (hstep : ∀ s, P s → ∃ t, M.step s = .next t ∧ P t) (n : Nat)
    {s : M.State} (h : P s) : ∃ t, M.run n s = .next t ∧ P t := by
  induction n generalizing s with
  | zero => exact ⟨s, rfl, h⟩
  | succ n ih =>
    obtain ⟨u, hu, hPu⟩ := hstep s h
    rw [Host.Core.run, hu]
    exact ih hPu

/-- A step with only ticks to come is a TICK, and only ticks are to come after it. -/
theorem step_of_ticks {s : State} (h : s.script.all Stimulus.isTick = true) :
    ∃ rest n, rest.all Stimulus.isTick = true ∧
      step s = .next ((tick { s with script := rest, now := n }).answer .nothing) := by
  obtain ⟨htick, -, -, hempty⟩ := stepMakesTheNextMove s s.script.tail
  cases hs : s.script with
  | nil => exact ⟨s.script, s.now, h, hempty hs⟩
  | cons line rest =>
    rw [hs, List.all_cons, Bool.and_eq_true] at h
    obtain ⟨hline, hrest⟩ := h
    cases line with
    | tick n => exact ⟨rest, n, hrest, by rw [hs] at htick; exact htick n rfl⟩
    | rx _ | readFails _ | call _ => exact absurd hline Bool.false_ne_true

/-- `t` waits in cycling mode with nothing offered and only ticks to come, and what it holds of `PEND`, `TXQ`, `PUBQ`,
`WARN` and `LMT` is what `s` holds. -/
structure State.HangsAs (s t : State) : Prop where
  init : t.init = true
  cycling : t.cyc = true
  waiting : t.ds = .waiting
  queue : t.rxq = []
  ticks : t.script.all Stimulus.isTick = true
  pend : t.pend = s.pend
  txq : t.txq = s.txq
  pubq : t.pubq = s.pubq
  warn : t.warn = s.warn
  lmt : t.lmt = s.lmt

/-- A tick with nothing offered in `Waiting` is STALE alone (R164, R182). -/
theorem tick_of_hang {s t : State} (h : s.HangsAs t) : tick t = stale t := by
  rw [tick_of_reads h.init (.inl ⟨h.cycling, h.waiting⟩)]
  rcases readBytes_cases t with ⟨-, e⟩ | ⟨hne, -⟩
  · exact e
  · exact absurd h.queue hne

/-- STALE, all that the tick of a step runs then, writes nothing that the hang is about (R240). -/
theorem step_of_hang {s t : State} (h : s.HangsAs t) : ∃ u, step t = .next u ∧ s.HangsAs u := by
  obtain ⟨rest, n, hrest, hstep⟩ := step_of_ticks h.ticks
  have hinput : s.HangsAs { t with script := rest, now := n } := { h with ticks := hrest }
  refine ⟨_, hstep, ?_⟩
  rw [tick_of_hang hinput, stale_frame]
  exact { hinput with }

/-- Settles O59, by induction on the number of steps (`run_keeps`, `step_of_hang`). -/
theorem waitingHasNoTimeout : Obligations.WaitingHasNoTimeout := by
  intro n s hi hui hd hq hticks
  have hstart : s.HangsAs s := ⟨hi, (cyc_iff s).2 hui, hd, hq, hticks, rfl, rfl, rfl, rfl, rfl⟩
  obtain ⟨t, hrun, h⟩ := run_keeps (M := Sys2Proof.core) (fun _ => step_of_hang) n hstart
  exact ⟨t, hrun, h.waiting, h.pend, h.txq, h.pubq, h.warn, h.lmt, h.queue⟩

end Sys2Proof.Machine
end
